-- ==== Sys2Proof/Word.lean ====
section
/-! DEFINITION. The word types of the block and the fixed-size table in which it holds a given
number of like things (registers of a file, hedgerows, pleachers). -/

namespace Sys2Proof

/-- A byte, the smallest unit every memory of the block addresses. -/
abbrev Byte := BitVec 8

/-- A register of the management window (R386). -/
abbrev W32 := BitVec 32

/-- An address register A0-A15 (R129), and an aligned memory word. -/
abbrev W64 := BitVec 64

/-- A pleacher instruction (R131). -/
abbrev Insn := BitVec 128

/-- A fixed number of like things, numbered from 0. -/
abbrev Tab (α : Type) (n : Nat) := Vector α n

/-- Entry `i`; a number outside the table gives the type's default. -/
def Tab.look {α : Type} {n : Nat} [Inhabited α] (t : Tab α n) (i : Nat) : α :=
  if h : i < n then t[i] else default

/-- Entry `i` replaced; a number outside the table changes nothing. -/
def Tab.put {α : Type} {n : Nat} (t : Tab α n) (i : Nat) (x : α) : Tab α n :=
  if h : i < n then t.set i x else t

/-- Entry `i` changed by `f`. -/
def Tab.upd {α : Type} {n : Nat} [Inhabited α] (t : Tab α n) (i : Nat) (f : α → α) : Tab α n :=
  t.put i (f (t.look i))

end Sys2Proof
end

