-- ==== Sys2Proof/Config.lean ====
section
/-! DEFINITION. What a delivered block fixes (its configuration) and the free values: constants
without a body, about which nothing can be proved. -/

namespace Sys2Proof

/-- The four configurations of R7. -/
inductive Kind
  | h2 | h4 | h8 | h12
  deriving DecidableEq, Repr, Inhabited

/-- The delivered configuration (R7, R9). The five options are the licensee's for KPE-H2 and
KPE-H4 only; KPE-H8 and KPE-H12 carry every unit whatever the options say. -/
structure Cfg where
  kind : Kind
  optPhase : Bool
  optIwp : Bool
  optPrivet : Bool
  optRcExt : Bool
  optRingFull : Bool
  deriving DecidableEq, Repr, Inhabited

/-- The fc cycles a record's CYCLES field reports (R235). The model has no clock: the value is free
(log 4). -/
opaque Config.freeCycles : Nat → BitVec 32

/-- A byte the manual leaves undefined (R242, R118, R375). -/
opaque Config.freeByte : Nat → BitVec 8

/-- A count that only the clock decides: how many events of a kind fall before another (R125, R188, R196). -/
opaque Config.freeCount : Nat → Nat

/-- Whether two events fall in one cycle, where only the clock decides it (R238). -/
opaque Config.freeTie : Nat → Bool

/-- A 64-bit value the manual leaves undefined (R375). -/
opaque Config.freeWord : Nat → BitVec 64

end Sys2Proof
end

