-- ==== Sys2Proof/Syntax.lean ====
section
/-! DEFINITION. The commands of the block: one constructor for each row of spec/opcode_table.json,
with the operands the command needs from outside. Units are named by number: `h` a hedgerow, `g` a
pleacher's global number 8h + p (R18), `d` a period domain, `k` a power domain of a hedgerow. -/

namespace Sys2Proof

/-- The six phase sources' captured values in one cycle (R266, R268). -/
abbrev Phases := Tab (BitVec 24) 6

/-- A path with the channel structure of R303. -/
inductive Path
  | hfp (h : Nat)
  | cfp
  | iwp
  deriving DecidableEq, Repr

/-- What is captured in one fc cycle: the sources that wrap, and every source's value (R268). -/
structure Captured where
  wraps : BitVec 6
  ph : Phases
  deriving DecidableEq, Repr

/-- What a command about period domains captures: the phase values of its cycle, and the captures of the two cycles
after it (R268, R279). -/
structure Cycles where
  ph : Phases
  next : Captured
  next2 : Captured
  deriving DecidableEq, Repr

/-- An operand of a command whose event can fall in one cycle with an earlier one: `tie` says that it falls in the
fc cycle in which the latest ending status arose, or in the event cycle of the latest wipe (R238, R379). -/
structure Tied (α : Type) where
  val : α
  tie : Bool
  deriving DecidableEq, Repr

/-- The data of an inbound transaction: kz_iwp_in_len, and its bytes with none where the byte enable is 0 (R308). -/
structure InData where
  len : BitVec 5
  bytes : List (Option Byte)
  deriving DecidableEq, Repr

/-- A memory that can enter retention (R204). -/
inductive RetMem
  | leaf (g : Nat)
  | bank (h : Nat)
  deriving DecidableEq, Repr

/-- What the logic test of a start found (R354, R355): block-level logic, pleachers by global
number, hedgerows whose unused spare, whose mover or fabric port, whose comparator failed. -/
structure LogicFails where
  block : Bool
  pleachers : List Nat
  spares : List Nat
  movers : List Nat
  comparators : List Nat
  deriving DecidableEq, Repr

/-- What the march passes of a start found (R354, R355): leaf-store rows (pleacher, row; 768 to 775 are the
spare rows), hedge-bank physical rows (hedgerow, bank, row; 128 is the spare row), privet lines, control memory,
pleachers whose tile-register, shadow or working array failed, hedgerows whose completion staging failed. -/
structure MemFails where
  leafRows : List (Nat × Nat)
  bankRows : List (Nat × Nat × Nat)
  privetLines : List Nat
  control : Bool
  pleachers : List Nat
  staging : List Nat
  deriving DecidableEq, Repr

/-- The result of a slice as its two observations (R334): whether the test cycles counted equal the
expected count, and whether the signature equals the expected value. -/
structure SliceObs where
  full : Bool
  sig : Bool
  deriving DecidableEq, Repr

/-- The instructions of the test wrapper (R323). -/
inductive WrapIns
  | bypass | extest | intest | netsel
  deriving DecidableEq, Repr, Inhabited

/-- An access through the test wrapper and the test network (R310, R323): the wrapper's reset, its
instruction (kz_selectwir), and a shift, a capture and an update of the selected path (kz_shiftwr, kz_capturewr,
kz_updatewr); the configuration, start and result of BIST controller `c`; the repair log, a soft
repair and the fuse words; the arrays, named with the address of a byte. -/
inductive NetAccess
  | wrapReset
  | wrapSelect (i : WrapIns)
  | wrapShift (wsi : Bool)
  | wrapCapture
  | wrapUpdate
  | bistConfig (c : Nat) (word : W32)
  | bistConfigRead (c : Nat)
  | bistStart (c : Nat)
  | bistResult (c : Nat)
  | fuseView (n : Nat)
  | logRead
  | softRepair (word : W32)
  | leafRead (g a : Nat)
  | leafWrite (g a : Nat) (x : Byte)
  | bankRead (h a : Nat)
  | bankWrite (h a : Nat) (x : Byte)
  | tileRead (g t a : Nat)
  | tileWrite (g t a : Nat) (x : Byte)
  | controlRead (a : Nat)
  | controlWrite (a : Nat) (x : Byte)
  | privetRead (a : Nat)
  | privetWrite (a : Nat) (x : Byte)
  deriving DecidableEq, Repr

/-- The commands, in the order of spec/opcode_table.json. -/
inductive Instr
  | powerOnReset
  | mgmtReset
  | coreReset
  | start
  | fuseWord (word : W32) (last : Bool)
  | logicTestEnd (f : LogicFails)
  | memoryTestEnd (f : MemFails)
  | fuseTmo
  | startTmo
  | pwrAck (h k : Nat) (level : Bool)
  | powerDownRequest (h k : Nat)
  | memoryClearDone (h k : Nat)
  | run
  | drainingStop
  | abortiveStop
  | blockStopped
  | hrDrainingStop (h : Nat)
  | hrAbortiveStop (h : Tied Nat)
  | hrStopped (h : Nat)
  | hrStart (h : Nat)
  | driverFence (h : Tied Nat)
  | fenceDrainComplete (h : Nat)
  | readmit (h : Nat)
  | readmitTestStart (h : Nat)
  | readmitTestEnd (h : Nat) (cmp : SliceObs) (pl : Tab SliceObs 8) (spare : SliceObs)
  | rcFlush (i : Nat) (bits : W32)
  | cntClearBlock
  | cntClearHedgerow
  | cntClearDomain
  | cntClearRemote
  | softRepair (word : W32)
  | repairLogRead
  | qsRetry
  | iwpOpenSet (bits : W32)
  | iwpOpenClr (bits : W32)
  | pdEnable (d : Nat) (word : W32)
  | pdDisable (d : Nat) (word : W32)
  | pdRebind (d : Nat) (word : W32)
  | genNegWrite (word : W32)
  | secLock (word : W32)
  | registerWrite (off : Nat) (word : W32)
  | pollTick
  | summaryLineReturn (tag : Nat) (line : BitVec 512) (psn : Bool) (code : BitVec 2)
  | doorbellLineReturn (tag : Nat) (line : BitVec 512) (psn : Bool) (code : BitVec 2)
  | ringTableReturn (tag : Nat) (entry : BitVec 128) (psn : Bool) (code : BitVec 2)
  | descriptorReturn (tag : Nat) (slot : BitVec 2048) (psn : Bool) (code : BitVec 2)
  | descriptorFetchResume
  | ringFenceRelease (ring : Nat)
  | admissionCompare
  | jobSelect (g : Nat)
  | jobStart (g : Nat)
  | stagingCopyStart (g : Nat)
  | stagingCopyComplete (g : Nat)
  | sliceQuantum (g n : Nat)
  | saveRecordDone (g slot : Nat)
  | restoreDone (g : Nat)
  | programFetchReturn (g : Nat)
  | endJob (g : Nat)
  | tld (g : Nat)
  | tst (g : Nat)
  | tperm (g : Nat)
  | txp (g : Nat)
  | tgath (g : Nat)
  | tscat (g : Nat)
  | tplane (g : Nat)
  | tswz (g : Nat)
  | tfillFill (g : Nat)
  | tfillPad (g : Nat)
  | tcat (g : Nat)
  | tmovCopy (g : Nat)
  | tmovHeaderWrite (g : Nat)
  | tmovALoad (g : Nat)
  | tmovAAdd (g : Nat)
  | tmovCLoad (g : Nat)
  | tmovNop (g : Nat)
  | pwait (g : Nat)
  | pwaitComplete (g : Nat) (ph : Phases)
  | loop (g : Nat)
  | br (g : Nat)
  | fenceInstr (g : Nat)
  | sync (g : Nat) (collide : Bool)
  | syncPoll (g : Nat) (collide : Bool)
  | routeBuildDone (g : Nat)
  | instructionRetire (g id refusals : Nat)
  | fabricReadResponse (h tag : Nat) (data : BitVec 1024) (psn code : BitVec 2) (last : Tied Bool)
  | fabricWriteResponse (path : Path) (tag : Nat) (code : Tied (BitVec 2))
  | fabricTimeout (path : Path) (tag : Tied Nat)
  | completionRecord (collide : Bool)
  | sourceWrap (wraps : BitVec 6) (ph : Phases)
  | pdStall (d : Nat)
  | windowOpen (ph : Cycles)
  | windowClose (ph : Tied Cycles)
  | iwpInbound (win : BitVec 6) (addr : BitVec 52) (src : BitVec 6) (id : BitVec 16) (sc : BitVec 2) (data : InData)
  | iwpResponseAccepted
  | clkReqRaise
  | clkAckRaise
  | clkReqLower
  | memQuiesce (level : Bool)
  | memTrain (level : Bool)
  | retentionEntry (m : RetMem)
  | retentionWakeDone (m : RetMem)
  | lcsRegister (code : BitVec 4) (fcStopped : Tied Bool)
  | tamper (fcStopped : Tied Bool)
  | wipeReadback
  | wipeEnd (lines : List Nat)
  | testModeRise
  | bistTurn (h : Nat)
  | sliceStart (h : Nat)
  | secureSliceTimeout (h : Nat)
  | sliceForced (h : Nat)
  | sliceEnd (h : Nat) (obs : SliceObs) (rows : List Nat)
  | reclaimRelease (h : Nat)
  | parityError (h : Nat)
  | networkAccess (a : NetAccess)
  | fcRestart (ph : Cycles)
  deriving DecidableEq, Repr

end Sys2Proof
end

