-- ==== Sys2Proof/Machine/Bits.lean ====
section
/-! DEFINITION. Bit fields, signed readings and byte order. Every multi-byte field is little-endian
and bit 0 is the least significant (Notation of 00_scope). -/

namespace Sys2Proof.Machine

open Sys2Proof

/-- Bits [lo+n-1:lo] of `x`. -/
def bits (x lo n : Nat) : Nat := (x >>> lo) % 2 ^ n

/-- Bit `i` of `x`. -/
def bitOn (x i : Nat) : Bool := x.testBit i

/-- The `n`-bit two's complement reading of `x` (R33, R131). -/
def signed (n x : Nat) : Int :=
  let y := x % 2 ^ n
  if 2 * y < 2 ^ n then (y : Int) else (y : Int) - 2 ^ n

/-- `x` with bits [lo+n-1:lo] replaced by `v`. -/
def putBits (x lo n v : Nat) : Nat :=
  (x - (bits x lo n) <<< lo) + (v % 2 ^ n) <<< lo

/-- The number whose little-endian bytes are given. -/
def leNat : List Byte → Nat
  | [] => 0
  | b :: r => b.toNat + 256 * leNat r

/-- The `n` low bytes of `x`, little-endian. -/
def leBytes : Nat → Nat → List Byte
  | 0, _ => []
  | n + 1, x => BitVec.ofNat 8 x :: leBytes n (x / 256)

/-- Field [hi:lo] of a register. -/
def fld (w : W32) (hi lo : Nat) : Nat := bits w.toNat lo (hi + 1 - lo)

/-- Bit `i` of a register. -/
def wbit (w : W32) (i : Nat) : Bool := w.toNat.testBit i

/-- A flag as a number, 1 for true. -/
def flag (b : Bool) : Nat := if b then 1 else 0

/-- A register put together from (low bit, value) fields. -/
def ofFields (fs : List (Nat × Nat)) : W32 :=
  BitVec.ofNat 32 (fs.foldl (fun a f => a + f.2 <<< f.1) 0)

/-- A register in which only the bits of `mask` can be written: its RW fields take `x`, its other bits
are 0 (R388). -/
def maskWrite (mask : Nat) (x : W32) : W32 := x &&& BitVec.ofNat 32 mask

/-- A bit of every flag of a list, the first as bit 0. -/
def flagBits : List Bool → Nat
  | [] => 0
  | b :: r => flag b + 2 * flagBits r

/-- ⌊log2 x⌋, and 0 for 0. -/
def lg (x : Nat) : Nat := Nat.log2 x

/-- A `w`-bit counter that stays at its maximum (R399). -/
def satInc (x : W32) (n : Nat) : W32 :=
  if x.toNat + n < 2 ^ 32 then BitVec.ofNat 32 (x.toNat + n) else BitVec.ofNat 32 (2 ^ 32 - 1)

/-- Element `i` of a list, with a value for a place outside it. -/
def nth {α : Type} : List α → Nat → α → α
  | [], _, d => d
  | x :: _, 0, _ => x
  | _ :: r, i + 1, d => nth r i d

/-- The first `n` numbers. -/
def upTo (n : Nat) : List Nat := List.range n

/-- ⌈a / b⌉. -/
def ceilDiv (a b : Nat) : Nat := (a + b - 1) / b

end Sys2Proof.Machine
end

