-- ==== Sys2Proof/Machine/Formats.lean ====
section
/-! DEFINITION. Element formats and conversion (03_element_formats, R57-R82). -/

namespace Sys2Proof.Machine

open Sys2Proof

/-- The floating-point formats of R61. -/
inductive Flt
  | fp32 | fp16 | bf16 | e4m3 | e5m2 | e3m2 | e2m3 | e2m1
  deriving DecidableEq, Repr, Inhabited

/-- The formats of R57. -/
inductive Fmt
  | uint (w : Nat)
  | sint (w : Nat)
  | raw8
  | flt (f : Flt)
  | mx (f : Flt)
  | mxint8
  | e8m0
  deriving DecidableEq, Repr, Inhabited

/-- The format of a 6-bit code (R57); every code not listed is RAW8 (R58). -/
def fmtOf : Nat → Fmt
  | 0x00 => .uint 2 | 0x01 => .uint 3 | 0x02 => .uint 4 | 0x03 => .uint 5
  | 0x04 => .uint 6 | 0x05 => .uint 8 | 0x06 => .uint 16 | 0x07 => .uint 32
  | 0x08 => .sint 2 | 0x09 => .sint 3 | 0x0A => .sint 4 | 0x0B => .sint 5
  | 0x0C => .sint 6 | 0x0D => .sint 8 | 0x0E => .sint 16 | 0x0F => .sint 32
  | 0x20 => .flt .fp32 | 0x21 => .flt .fp16 | 0x22 => .flt .bf16 | 0x23 => .flt .e4m3
  | 0x24 => .flt .e5m2 | 0x25 => .flt .e3m2 | 0x26 => .flt .e2m3 | 0x27 => .flt .e2m1
  | 0x28 => .mx .e4m3 | 0x29 => .mx .e5m2 | 0x2A => .mx .e3m2 | 0x2B => .mx .e2m3
  | 0x2C => .mx .e2m1 | 0x2D => .mxint8
  | 0x30 => .e8m0
  | _ => .raw8

/-- Exponent bits E of R61. -/
def Flt.eBits : Flt → Nat
  | .fp32 => 8 | .fp16 => 5 | .bf16 => 8 | .e4m3 => 4 | .e5m2 => 5 | .e3m2 => 3 | .e2m3 => 2 | .e2m1 => 2

/-- Mantissa bits M of R61. -/
def Flt.mBits : Flt → Nat
  | .fp32 => 23 | .fp16 => 10 | .bf16 => 7 | .e4m3 => 3 | .e5m2 => 2 | .e3m2 => 2 | .e2m3 => 3 | .e2m1 => 1

/-- Bias of R61. -/
def Flt.bias : Flt → Nat
  | .fp32 => 127 | .fp16 => 15 | .bf16 => 127 | .e4m3 => 7 | .e5m2 => 15 | .e3m2 => 3 | .e2m3 => 1 | .e2m1 => 1

/-- Encoding of the largest finite value (R61). -/
def Flt.maxEnc : Flt → Nat
  | .fp32 => 0x7F7FFFFF | .fp16 => 0x7BFF | .bf16 => 0x7F7F | .e4m3 => 0x7E | .e5m2 => 0x7B
  | .e3m2 => 0x1F | .e2m3 => 0x1F | .e2m1 => 0x7

/-- Width of an encoding. -/
def Flt.width (f : Flt) : Nat := 1 + f.eBits + f.mBits

/-- Whether the format has infinities and NaNs with e all ones (R61). -/
def Flt.ieee : Flt → Bool
  | .fp32 | .fp16 | .bf16 | .e5m2 => true
  | .e4m3 | .e3m2 | .e2m3 | .e2m1 => false

/-- Encoding of positive infinity, where the format has one (R61). -/
def Flt.infEnc (f : Flt) : Nat := f.maxEnc + 1

/-- The canonical NaN of R74 without its sign; FP8 E4M3's only NaN; 0 where the format has none. -/
def Flt.nanEnc : Flt → Nat
  | .fp32 => 0x7FC00000 | .fp16 => 0x7E00 | .bf16 => 0x7FC0 | .e5m2 => 0x7E | .e4m3 => 0x7F
  | .e3m2 | .e2m3 | .e2m1 => 0

/-- Width w of R57. -/
def Fmt.width : Fmt → Nat
  | .uint w => w
  | .sint w => w
  | .raw8 => 8
  | .flt f => f.width
  | .mx f => f.width
  | .mxint8 => 8
  | .e8m0 => 8

/-- The block-scaled formats (R57). -/
def Fmt.isMx : Fmt → Bool
  | .mx _ | .mxint8 => true
  | _ => false

/-- A decoded value (R67): exact, (-1)^neg × m × 2^e for a number. -/
inductive Val
  | nan (neg : Bool)
  | inf (neg : Bool)
  | num (neg : Bool) (m : Nat) (e : Int)
  deriving DecidableEq, Repr, Inhabited

/-- The value of a floating-point encoding (R61). -/
def Flt.decode (f : Flt) (x : Nat) : Val :=
  let neg := bitOn x (f.width - 1)
  let e := bits x f.mBits f.eBits
  let m := bits x 0 f.mBits
  if f.ieee && e == 2 ^ f.eBits - 1 then (if m == 0 then .inf neg else .nan neg)
  else if f == .e4m3 && x % 128 == 0x7F then .nan neg
  else if e == 0 then .num neg m (1 - (f.bias : Int) - f.mBits)
  else .num neg (2 ^ f.mBits + m) ((e : Int) - f.bias - f.mBits)

/-- The value of an integer reading. -/
def intVal (i : Int) : Val := .num (decide (i < 0)) i.natAbs 0

/-- A value times 2^k. -/
def Val.scale : Val → Int → Val
  | .num n m e, k => .num n m (e + k)
  | v, _ => v

/-- The value of an encoding (R60-R64); `scale` is the E8M0 scale of an MX element. A NaN under scale
0xFF carries the sign bit of its element's encoding, and the NaN of E8M0 is positive (DEDUCED,
log 20). -/
def Fmt.decode (f : Fmt) (x scale : Nat) : Val :=
  match f with
  | .uint w => intVal (bits x 0 w)
  | .sint w => intVal (signed w x)
  | .raw8 => intVal (bits x 0 8)
  | .flt g => g.decode x
  | .mx g => if scale == 0xFF then .nan (bitOn x (g.width - 1)) else (g.decode x).scale ((scale : Int) - 127)
  | .mxint8 =>
    if scale == 0xFF then .nan (bitOn x 7) else (intVal (signed 8 x)).scale ((scale : Int) - 127 - 6)
  | .e8m0 => if x % 256 == 0xFF then .nan false else .num false 1 (((x % 256 : Nat) : Int) - 127)

/-- The rounding modes of R65. -/
inductive Rnd
  | rne | rtz | sr
  deriving DecidableEq, Repr, Inhabited

/-- ROUND (R65): 3 is taken as 0. -/
def rndOf : Nat → Rnd
  | 1 => .rtz
  | 2 => .sr
  | _ => .rne

/-- How an element is rounded: the mode, wrap (1) or saturate (0), and its random value u (R71). -/
structure Conv where
  rnd : Rnd
  wrap : Bool
  u : Nat
  deriving DecidableEq, Repr, Inhabited

/-- The random value of R71 for element index `i`. -/
def srU (seed i : Nat) : Nat :=
  let x : BitVec 32 := BitVec.ofNat 32 seed ^^^ BitVec.ofNat 32 (i * 0x9E3779B9)
  let x := x ^^^ (x >>> 16)
  let x := x * 0x7FEB352D#32
  let x := x ^^^ (x >>> 15)
  let x := x * 0x846CA68B#32
  let x := x ^^^ (x >>> 16)
  x.toNat >>> 16

/-- The magnitude m × 2^e rounded to a whole number of grid units 2^q (R69, R70). -/
def roundMag (c : Conv) (m : Nat) (e q : Int) : Nat :=
  if q ≤ e then m * 2 ^ (e - q).toNat
  else
    let d := (q - e).toNat
    let n := m / 2 ^ d
    let r := m % 2 ^ d
    match c.rnd with
    | .rtz => n
    | .rne => if 2 * r > 2 ^ d || (2 * r == 2 ^ d && n % 2 == 1) then n + 1 else n
    | .sr => if r * 65536 / 2 ^ d + c.u ≥ 65536 then n + 1 else n

/-- The sign bit of a floating-point encoding. -/
def Flt.signed (f : Flt) (neg : Bool) (mag : Nat) : Nat := mag + flag neg * 2 ^ (f.width - 1)

/-- An overflow into a floating-point target (R73). -/
def Flt.overflow (f : Flt) (c : Conv) (neg : Bool) : Nat :=
  if c.wrap && c.rnd != .rtz then
    (if f.ieee then f.signed neg f.infEnc
     else if f == .e4m3 then f.signed neg f.nanEnc
     else f.signed neg f.maxEnc)
  else f.signed neg f.maxEnc

/-- A value encoded in a floating-point format with one rounding (R67, R69, R73, R74).
A NaN becomes the format's canonical NaN (R74), BF16 to FP32 too, where R62 appends zero bits (log 67). -/
def Flt.encode (f : Flt) (c : Conv) : Val → Nat
  | .nan neg => if f.ieee || f == .e4m3 then f.signed neg f.nanEnc else 0
  | .inf neg =>
    if f.ieee then f.signed neg f.infEnc
    else if f == .e4m3 then f.signed neg (if c.wrap then f.nanEnc else f.maxEnc)
    else f.signed neg f.maxEnc
  | .num neg 0 _ => f.signed neg 0
  | .num neg m e =>
    let emin : Int := 1 - (f.bias : Int)
    let p : Int := (lg m : Int) + e
    let q : Int := max p emin - f.mBits
    let n := roundMag c m e q
    let enc := ((q + f.mBits + f.bias - 1) * 2 ^ f.mBits + n).toNat
    if enc > f.maxEnc then f.overflow c neg else f.signed neg enc

/-- An integer with its limits: saturated, or wrapped to `w` bits (R73, R78). -/
def encodeInt (w : Nat) (lo hi : Int) (c : Conv) : Val → Nat
  | .nan _ => 0
  | .inf neg => ((if neg then lo else hi) % 2 ^ w).toNat
  | .num neg m e =>
    let n : Int := roundMag c m e 0
    let i := if neg then -n else n
    if lo ≤ i ∧ i ≤ hi then (i % 2 ^ w).toNat
    else if c.wrap then (i % 2 ^ w).toNat
    else ((if i < lo then lo else hi) % 2 ^ w).toNat

/-- An MXINT8 element (R73, R74, R78), in units of 2^-6; 0x80 is never written. -/
def encodeMxInt8 (c : Conv) : Val → Nat
  | .nan _ => 0
  | .inf neg => if neg then 0x81 else 0x7F
  | .num neg m e =>
    let n : Int := roundMag c m e (-6)
    let i := if neg then -n else n
    if -127 ≤ i ∧ i ≤ 127 then (i % 256).toNat
    else if c.wrap then
      (let x := (i % 256).toNat
       if x == 0x80 then (if neg then 0x81 else 0x7F) else x)
    else if i < 0 then 0x81 else 0x7F

/-- A conversion to E8M0 (R74, R77). -/
def encodeE8M0 (c : Conv) : Val → Nat
  | .nan _ => 0xFF
  | .inf _ => if c.wrap then 0xFF else 0xFE
  | .num _ 0 _ => 0
  | .num _ m e => (max 0 (min 254 ((lg m : Int) + e + 127))).toNat

/-- A value encoded in a format; for an MX format, as an element whose value has been divided by the
block's scale (R79). -/
def Fmt.encode (f : Fmt) (c : Conv) (v : Val) : Nat :=
  match f with
  | .uint w => encodeInt w 0 (2 ^ w - 1) c v
  | .sint w => encodeInt w (-(2 ^ (w - 1))) (2 ^ (w - 1) - 1) c v
  | .raw8 => 0
  | .flt g => g.encode c v
  | .mx g => g.encode c v
  | .mxint8 => encodeMxInt8 c v
  | .e8m0 => encodeE8M0 c v

/-- Bits of an encoding copied to or from RAW8 (R76). -/
def rawCopy (ws wd x : Nat) : Nat := x % 2 ^ min (min ws 8) (min wd 8)

/-- One element from `src` to the non-MX format `dst` (R66, R67, R76). -/
def convElem (src dst : Fmt) (same : Bool) (c : Conv) (x scale : Nat) : Nat :=
  if same && !src.isMx then x % 2 ^ src.width
  else if src == .raw8 || dst == .raw8 then rawCopy src.width dst.width x
  else dst.encode c (src.decode x scale)

/-- emax of R79. -/
def Fmt.emax : Fmt → Int
  | .mx .e4m3 => 8
  | .mx .e5m2 => 15
  | .mx .e3m2 => 4
  | .mx .e2m3 => 2
  | .mx .e2m1 => 2
  | _ => 0

/-- ⌊log2⌋ of the largest finite non-zero magnitude of a block, if it has one (R79). -/
def blockLog : List Val → Option Int
  | [] => none
  | .num _ m e :: r =>
    if m == 0 then blockLog r
    else
      match blockLog r with
      | none => some ((lg m : Int) + e)
      | some k => some (max ((lg m : Int) + e) k)
  | _ :: r => blockLog r

/-- Whether a block holds a NaN (R80). -/
def blockNan (vs : List Val) : Bool := vs.any (fun v => match v with | .nan _ => true | _ => false)

/-- An element of a block to be made: its value and, from a RAW8 source, its encoding (R76). -/
structure MxIn where
  val : Val
  raw : Nat
  u : Nat
  deriving DecidableEq, Repr, Inhabited

/-- A destination block: its scale encoding and its element encodings (R76, R79, R80). -/
def mxBlock (dst : Fmt) (fromRaw : Bool) (rnd : Rnd) (wrap : Bool) (xs : List MxIn) : Nat × List Nat :=
  if fromRaw then (0x7F, xs.map (fun x => x.raw))
  else if blockNan (xs.map (fun x => x.val)) then (0xFF, xs.map (fun _ => 0))
  else
    let k : Int :=
      match blockLog (xs.map (fun x => x.val)) with
      | none => 0
      | some l => max (-127) (min 127 (l - dst.emax))
    ((k + 127).toNat, xs.map (fun x => dst.encode ⟨rnd, wrap, x.u⟩ (x.val.scale (-k))))

end Sys2Proof.Machine
end

