-- ==== Sys2Proof/Machine/State.lean ====
section
/-! DEFINITION. The state of the block as plain data. `Env` is what a core reset keeps, grouped by
the reset that clears each part (R351): `regs` by kz_mrst_n, the rest by kz_por_n only. `Eng` is the
fc-domain state, which kz_rst_n clears. `pending` is the queue of waiting commands. -/

namespace Sys2Proof.Machine

open Sys2Proof

/-- Nothing stops the block with a fault: the manual names no event that does (a job's faults are
statuses of its record, the block's are STATE FAILED, fences and error causes). Raised by nobody;
safe. -/
inductive Fault
  deriving DecidableEq, Repr

/-- Why a command has no meaning here. -/
inductive Refusal
  /-- An instruction without a meaning in the model, by its mnemonic. Raised by exec's arms that
  reject by name, if any; safe: nothing can be proved of what follows. -/
  | notModelled (mnemonic : String)
  deriving DecidableEq, Repr

/-- A memory of bytes: (address, byte) pairs, addresses strictly rising, no byte equal to 0, which
is what an unlisted address reads (every array holds zeros after a start, R354; log 11). -/
abbrev Mem := List Host.Cell

/-- STATE of KZ_START_STATUS (R354). -/
inductive Phase
  | reset | fuse | power | logic | memory | stopped | running | failed
  deriving DecidableEq, Repr, Inhabited

/-- A memory a box lies in (R47). -/
inductive Inst
  | host
  | bank (h : Nat)
  | leaf (g : Nat)
  | privet
  deriving DecidableEq, Repr, Inhabited

/-- STATUS codes of R236, but for the two DONE codes. -/
inductive Status
  | droppedLate | droppedPeriod | shapeFault | routeFault | fencedUnit | abortedStop
  | windowClosed | fabricError | fabricTimeout | privetDenied
  deriving DecidableEq, Repr, Inhabited

/-! ### Descriptors -/

/-- A tensor descriptor with the fields of R33; extents and strides by dimension 0 to 7. -/
structure TDesc where
  base : Nat
  swzY : Nat
  swzM : Nat
  swzB : Nat
  esp : Nat
  store : Nat
  format : Nat
  space : Nat
  rank : Nat
  fill : Nat
  planeStride : Int
  scaleBase : Nat
  extent : List Nat
  stride : List Int
  deriving DecidableEq, Repr, Inhabited

/-- A job descriptor: the header of R225, the two tensors and the block of R228. -/
structure Desc where
  ringFence : Bool
  domain : Nat
  phaseEn : Bool
  mirrorEn : Bool
  sc : Nat
  prog : Bool
  progEntry : Nat
  tag : W64
  openPhase : Nat
  closePhase : Nat
  mirrorBit : Nat
  pin : Nat
  pleacher : Nat
  src : TDesc
  dst : TDesc
  op : Nat
  round : Nat
  ovf : Nat
  padKeep : Bool
  axes : List Nat
  seed : Nat
  sel : W64
  pad : List Int
  deriving DecidableEq, Repr, Inhabited

/-! ### The register window's RW fields -/

/-- KZ_PD_CFG and the enable bits of KZ_PD_IRQ of one domain, as written. -/
structure PdRegs where
  cfg : W32
  ie : W32
  deriving DecidableEq, Repr, Inhabited

/-- The settings of one distributed tensor (R286). -/
structure DtRegs where
  aperLo : W32
  aperHi : W32
  otLo : W32
  otHi : W32
  shape : W32
  deriving DecidableEq, Repr, Inhabited

/-- The settings of one inbound window (R294). -/
structure WinRegs where
  lo : W32
  hi : W32
  size : W32
  deriving DecidableEq, Repr, Inhabited

/-- The RW registers of one hedgerow (R403). -/
structure HrRegs where
  pwr : W32
  semWin : W32
  memCfg : W32
  scCfg : W32
  lendHb : W32
  saveLo : W32
  saveHi : W32
  stageLo : W32
  stageHi : W32
  stageSize : W32
  deriving DecidableEq, Repr, Inhabited

/-- Every RW field that kz_mrst_n returns to its reset value (R351), as written (R388). -/
structure Regs where
  genNeg : W32
  errEnable : W32
  dbBaseLo : W32
  dbBaseHi : W32
  ringTblLo : W32
  ringTblHi : W32
  pollCfg : W32
  sliceCfg : W32
  fabTmo : W32
  memWake : W32
  bistCfg : W32
  bistOppt : W32
  nodeId : W32
  pd : Tab PdRegs 16
  dt : Tab DtRegs 32
  win : Tab WinRegs 32
  lend : Tab (BitVec 12) 96
  hr : Tab HrRegs 12
  deriving DecidableEq, Repr, Inhabited

/-! ### What only kz_por_n clears -/

/-- The security set-up and security status of R351. `lcs` is none before the first registration. -/
structure Sec where
  cfg : W32
  saveBase : W32
  stageBase : W32
  stageSize : W32
  lcs : Option (BitVec 4)
  tamper : Bool
  lcsInvalid : Bool
  wipes : BitVec 16
  deriving DecidableEq, Repr, Inhabited

/-- The always-on state (R358, R359). `unresolved` says that the latest start has neither succeeded nor
failed under R356, `prevOpen` that the start before it had not. `fuseDone` is FUSE_DONE, kept until
kz_por_n. -/
structure AlwaysOn where
  qs : Bool
  qsRetry : Bool
  fails : BitVec 3
  reason : BitVec 4
  unresolved : Bool
  prevOpen : Bool
  fuseDone : Bool
  deriving DecidableEq, Repr, Inhabited

/-- Repair state of one leaf store (R336): FAILED units, the mapped spares as (spare, row), failed
spares. -/
structure LeafRep where
  failed : BitVec 12
  map : List (Nat × Nat)
  bad : List Nat
  deriving DecidableEq, Repr, Inhabited

/-- Repair state of one hedgerow: FAILED segments, mapped bank spares as (bank, physical row),
banks whose spare failed, SPARE and SPARE_FOR. -/
structure HrRep where
  failed : BitVec 16
  map : List (Nat × Nat)
  bad : List Nat
  spare : BitVec 2
  spareFor : BitVec 3
  deriving DecidableEq, Repr, Inhabited

/-- Soft repairs, FAILED bits, the repair log, KZ_REPAIR_STATUS and the words taken from the fuse box (R341). -/
structure Rep where
  leaf : Tab LeafRep 96
  hr : Tab HrRep 12
  log : List W32
  logLost : Bool
  pvFail : Bool
  pvLine : BitVec 12
  fuse : List W32
  deriving DecidableEq, Repr, Inhabited

/-- The fabric's request-ready levels (R303): one bit per service class on the hedgerow ports and the local
write path, one bit on the control port. No command of the table changes them (log 35). -/
structure Rdy where
  hfp : Tab (BitVec 4) 12
  cfp : Bool
  iwp : BitVec 4
  deriving DecidableEq, Repr, Inhabited

/-- Pins with a level of their own: kz_pwr_req and kz_pwr_ack by hedgerow, kz_test_mode, kz_clk_req,
kz_mem_quiesce, kz_mem_train and the fabric's ready levels. -/
structure Pins where
  pwrReq : Tab (BitVec 4) 12
  pwrAck : Tab (BitVec 4) 12
  testMode : Bool
  clkReq : Bool
  quiesce : Bool
  train : Bool
  rdy : Rdy
  deriving DecidableEq, Repr, Inhabited

/-- The test wrapper (R310, R323): its instruction, its bypass bit and kz_wso. -/
structure Wrapper where
  ins : WrapIns
  byp : Bool
  wso : Bool
  deriving DecidableEq, Repr, Inhabited

/-- What a core reset keeps; `rdata` is kz_mp_rdata (R301). -/
structure Env where
  cfg : Cfg
  regs : Regs
  sec : Sec
  ao : AlwaysOn
  rep : Rep
  pins : Pins
  wrap : Wrapper
  rdata : W32
  deriving DecidableEq, Repr, Inhabited

/-! ### Rings and the Hedger -/

/-- A ring context (R215). -/
structure RingCtx where
  sizeLog2 : Nat
  fgen : Nat
  secure : Bool
  descBase : Nat
  enable : Bool
  evt : Bool
  ordered : Bool
  cplBase : Nat
  deriving DecidableEq, Repr, Inhabited

/-- The Hedger's state of one ring (R216); `due` says that a reload is due, so that nothing more is fetched
(R217; log 78), `secure` is the marking fixed at the load (R372). `sched` is the ring's two bytes of scheduling
state in control memory (R27), whose use no rule gives (log 63). -/
structure Ring where
  num : Nat
  loaded : Bool
  epoch : BitVec 8
  f : W32
  c : W32
  pend : Bool
  prodSeen : W32
  reload : Bool
  due : Bool
  ctx : RingCtx
  secure : Bool
  sched : BitVec 16
  deriving DecidableEq, Repr, Inhabited

/-- A poll tick in progress (R218). `lines` and `doorbells` and `tables` are the reads not yet
returned, `got` the returned summary lines whose turn has not come, `plan` the fetches not yet
issued, `fetched` the jobs the tick has fetched. -/
structure Tick where
  nLines : Nat
  burst : Nat
  nextLine : Nat
  lines : List Nat
  got : List (Nat × BitVec 512)
  doorbells : List Nat
  tables : List Nat
  fetching : Bool
  plan : List Nat
  fetched : List (Nat × W32)
  deriving DecidableEq, Repr, Inhabited

/-- A window instance (R274-R276): the instance P, and whether the window has opened or closed. -/
structure Win where
  inst : W32
  opened : Bool
  closed : Bool
  deriving DecidableEq, Repr, Inhabited

/-- An entry of the admission queue (R243). `arrived` is 0 while its descriptor is being read,
`bad` is the status of a failed read, `handed` says that its tick has ended, `ordered` that it
stands in the admission order. -/
structure QJob where
  ring : Nat
  seq : W32
  desc : Desc
  arrived : Bool
  bad : Option Status
  handed : Bool
  ordered : Bool
  win : Option Win
  deriving DecidableEq, Repr, Inhabited

/-- A record that waits for its turn (R239). `key` names the job's pleacher and slot, none for a job
that was never admitted; its other fields are then the record's. `arose` is the number of the cycle in which
its status arose (R238). -/
structure EndRef where
  ring : Nat
  seq : W32
  key : Option (Nat × Nat)
  status : Status
  tag : W64
  domain : Nat
  phase : BitVec 24
  arose : Nat
  deriving DecidableEq, Repr, Inhabited

/-- What a CFP transaction is for (R211, R217, R219, R240). -/
inductive CfpWho
  | summary (line : Nat)
  | doorbell (ring : Nat)
  | table (ring : Nat) (prod : W32) (epoch : BitVec 8)
  | descr (ring : Nat) (seq : W32)
  | record (ring : Nat) (evt : Bool)
  deriving DecidableEq, Repr, Inhabited

/-- A CFP transaction, waiting (`tag` not yet used) or outstanding. `data` are a record's bytes. -/
structure CfpX where
  tag : Nat
  who : CfpWho
  addr : Nat
  len : Nat
  sec : Bool
  data : List Byte
  timedOut : Bool
  deriving DecidableEq, Repr, Inhabited

/-- The Hedger (R24). -/
structure Hedger where
  tick : Option Tick
  rings : List Ring
  queue : List QJob
  order : List (Nat × W32)
  st : Nat
  admitNext : W32
  ends : List EndRef
  cfpWant : List CfpX
  cfpOut : List CfpX
  deriving DecidableEq, Repr, Inhabited

/-! ### Jobs -/

/-- A claim of the hedge line (R250): a box on unreduced addresses, read or write. -/
structure Claim where
  inst : Inst
  lo : Int
  hi : Int
  write : Bool
  deriving DecidableEq, Repr, Inhabited

/-- Slot states of R255. -/
inductive SlotState
  | waiting | ready | running | suspended | ended
  deriving DecidableEq, Repr, Inhabited

/-- An entry of a binding list (R101). -/
structure Binding where
  id : W32
  space : Nat
  addr : Nat
  grain : Nat
  deriving DecidableEq, Repr, Inhabited

/-- A tile register header (R113). -/
structure Header where
  foot : Nat
  inuse : Bool
  shape : W32
  deriving DecidableEq, Repr, Inhabited

/-- The sequencer's context of a job (R118, R159). -/
structure Ctx where
  pc : BitVec 20
  a : Tab W64 16
  c : Tab W32 8
  hdr : Tab Header 8
  n : BitVec 16
  binds : List Binding
  deriving DecidableEq, Repr, Inhabited

/-- What a fabric transaction of a job is for. `data key`: bytes of a read the job keeps under `key`; `owner t b`: an
owner-table entry; `stageRead n`: unit `n` of the job's staging copy; `restore off`: bytes of the save record. -/
inductive Purpose
  | data (key : Nat)
  | owner (t b : Nat)
  | dest
  | stageRead (n : Nat)
  | stageWrite
  | save
  | restore (off : Nat)
  deriving DecidableEq, Repr, Inhabited

/-- A transfer of a job the mover has not issued yet. `data` holds none where the byte enable is 0;
`psn` marks the poisoned 64-byte units of a staging-copy write. -/
structure Req where
  write : Bool
  resolve : Bool
  addr : Nat
  len : Nat
  data : List (Option Byte)
  psn : List Bool
  purpose : Purpose
  deriving DecidableEq, Repr, Inhabited

/-- An outstanding fabric transaction (R303-R306). `owner` is the job's pleacher and slot and `adm` its
ADMIT_SEQ; `live` is 0 once the job no longer wants its data; `beat` counts the beats received; `orig` is
the address before its resolution (R287). -/
structure Xact where
  tag : Nat
  write : Bool
  remote : Bool
  addr : Nat
  len : Nat
  sc : Nat
  sec : Bool
  node : Nat
  win : Nat
  data : List (Option Byte)
  psn : List Bool
  owner : Nat × Nat
  adm : W32
  purpose : Purpose
  beat : Nat
  erred : Bool
  live : Bool
  timedOut : Bool
  orig : Nat
  deriving DecidableEq, Repr, Inhabited

/-- Where a built-in program stands (R21, R229): not begun, waiting for a route, for its index data,
for its source and merge data, or for its writes. -/
inductive BPhase
  | start | route | index | source | writes
  deriving DecidableEq, Repr, Inhabited

/-- A staged job's copy (R182): not due, due, its units being read, being written to the region, complete. -/
inductive Stage
  | none | owed | copying | writing | done
  deriving DecidableEq, Repr, Inhabited

/-- A staged box with its placement (R181, R183): unreduced bounds, offset in the region, the region's
base and size, and whether it is the privet region. -/
structure StagedBox where
  inst : Inst
  lo : Int
  hi : Int
  off : Nat
  base : Nat
  size : Nat
  privet : Bool
  deriving DecidableEq, Repr, Inhabited

/-- The units of a staging copy that have been read: the bytes of unit `n` at 64 n, the poisoned units, and
those a remote block answered (R290, R320). -/
structure CopyBuf where
  rd : Mem
  psn : List Nat
  remote : List Nat
  deriving DecidableEq, Repr, Inhabited

/-- Where a suspended job's save record lies (R260, R375). -/
inductive SaveAt
  | none
  | host
  | privet (k : Nat)
  deriving DecidableEq, Repr, Inhabited

/-- An admitted job: its hedge-line entry (R250), its slot and its context. `later` are the reads a suspended
built-in program still has to make (R261), `idxAt` and `srcAt` the bytes of on-block memory it was granted as
its index and its source (R202), `copyRemote` the units of its staging region that stand for remote ones
(R290), `arose` the number of the cycle in which its status arose (R238). -/
structure Job where
  ring : Nat
  seq : W32
  desc : Desc
  secure : Bool
  admitSeq : W32
  g : Nat
  slot : Nat
  st : SlotState
  wait : List (Nat × Nat)
  claims : List Claim
  stamp : Nat
  begun : Bool
  bound : Bool
  win : Option Win
  status : Option Status
  faultIdx : BitVec 16
  endPhase : BitVec 24
  poisoned : Bool
  oob : Bool
  onEdge : Bool
  staged : Bool
  reclaimed : Bool
  waited : Bool
  misaligned : Bool
  undef : Bool
  stage : Stage
  boxes : List StagedBox
  bphase : BPhase
  units : Option (List Nat)
  xq : List Req
  rd : Mem
  rdPsn : List Nat
  remote : List Nat
  resolved : List (Nat × Nat × Nat × Nat)
  ownerBusy : Bool
  saved : Option Ctx
  savedOk : Bool
  saveAt : SaveAt
  later : List Req
  idxAt : Mem
  srcAt : Mem
  copy : CopyBuf
  copyRemote : List Nat
  arose : Nat
  deriving DecidableEq, Repr, Inhabited

/-! ### Pleachers -/

/-- What an in-flight row instruction delivers when it retires (R122). `reg`: the register image of
register `t`; `load`: a load whose fabric data are still coming; `perm`: a permutation that waits for
its route, with the captured source rows; `store`: a memory image for the bytes at `addr` of
`space`. -/
inductive Deliver
  | reg (t : Nat) (shape : W32) (img : List Byte)
  | load (insn : Insn) (addr : Nat) (key : Nat)
  | perm (insn : Insn) (sel : W64) (id : W32) (rows : List Byte)
  | store (space : Nat) (addr : Nat) (img : List Byte)
  deriving DecidableEq, Repr, Inhabited

/-- An in-flight row instruction: its number, the registers it reads and writes, whether it occupies
the shadow (R123, R143), the byte range of memory it reads or writes, the intermediate tile it leaves in the shadow
(R143) and its checkpoint (R159). -/
structure Flight where
  id : Nat
  reads : List Nat
  writes : List Nat
  shadow : Bool
  space : Nat
  lo : Nat
  hi : Nat
  load : Bool
  deliver : Deliver
  mid : List Byte
  oob : Bool
  ckpt : Ctx
  deriving DecidableEq, Repr, Inhabited

/-- A valid route-cache entry (R99): its set and way, its identifier, the grain and the source unit of
every unit, and the 4352 switch settings of R85 with bit 256s + k for switch k of stage s. -/
structure Route where
  set : Nat
  way : Nat
  id : W32
  grain : Nat
  src : List Nat
  settings : Nat
  deriving DecidableEq, Repr, Inhabited

/-- A route under build (R97): the identifier, the grain and the normalized map; `pend` holds, while map
bytes come from a staged copy on the host, the place under which they are kept and every byte's memory,
unreduced address and place (R180). -/
structure Build where
  id : W32
  grain : Nat
  src : List Nat
  pend : Option (Nat × List (Inst × Int × Nat))
  deriving DecidableEq, Repr, Inhabited

/-- A row of the fetch buffer (R128): its hedge-bank offset and its 512 bytes. -/
structure FRow where
  base : Nat
  bytes : List Byte
  deriving DecidableEq, Repr, Inhabited

/-- What the sequencer waits for. `acting`: a SYNC whose condition was met has its action to carry out (R138);
`polling key`: the bytes of a SYNC's poll come from a staged copy on the host and are kept under `key` (R138, R180);
`faulted`: a fault was found at issue and earlier instructions run to their ends (R126); `yielding`: the job yields,
and the instructions that had issued all their reads run to their ends (R125, R259); `ending`: an ending status
arose, and stores to memories of the block that had issued all their reads run to their ends (R125, R279). -/
inductive PlWait
  | none
  | pwait (d : Nat) (target : BitVec 24)
  | sync
  | acting
  | polling (key : Nat)
  | faulted
  | yielding
  | ending
  deriving DecidableEq, Repr, Inhabited

/-- What a pleacher does: nothing; a selected new job that has not started; a restore; a job. -/
inductive PlPhase
  | idle | selected | restoring | running
  deriving DecidableEq, Repr, Inhabited

/-- An operand reuse latch of every lane group (R119): the register and row of its tag, and the row's 512
bytes, 32 to a lane group. -/
structure Latch where
  reg : Nat
  row : Nat
  bytes : List Byte
  deriving DecidableEq, Repr, Inhabited

/-- The two operand reuse latches (R119): the one used more recently and the other. -/
structure Latches where
  recent : Option Latch
  older : Option Latch
  deriving DecidableEq, Repr, Inhabited

/-- A pleacher (R17). `tile` holds T0-T7 at 8192 t and the shadow register at 65536; `newest` numbers the row
instruction issued last, which alone may still have row reads to issue (R130); `incoming` is the slot chosen when
the RUNNING job began to yield (R257, R259). -/
structure Pleacher where
  phase : PlPhase
  cur : Nat
  ctx : Ctx
  tile : Mem
  buf : List FRow
  fetch : List Nat
  flights : List Flight
  wait : PlWait
  routes : List Route
  build : Option Build
  latches : Latches
  newest : Nat
  incoming : Option Nat
  deriving DecidableEq, Repr, Inhabited

/-! ### Hedgerows -/

/-- Retention of one memory (R205). -/
inductive Ret
  | awake | retained | waking
  deriving DecidableEq, Repr, Inhabited

/-- Counters of one hedgerow (R403). -/
structure HrCnt where
  lsCollide : W32
  hbCollide : W32
  switches : W32
  rcHit : W32
  rcMiss : W32
  fabErr : W32
  fabTmo : W32
  poison : W32
  bistPass : W32
  bistFail : W32
  bistInc : W32
  bistSkip : W32
  reclaim : W32
  deriving DecidableEq, Repr, Inhabited

/-- A coppice-slice target (R324): its code, the pleacher and the unit or segment. -/
structure Target where
  code : Nat
  pl : Nat
  unit : Nat
  deriving DecidableEq, Repr, Inhabited

/-- How far a turn's slice is: waiting for its target, running, or being cleared after a stop. -/
inductive SliceSt
  | waiting | running | clearing
  deriving DecidableEq, Repr, Inhabited

/-- A turn in progress (R326): the target, the borrowed pages of a segment, the comparator's holding
domain and its wraps counted (R330), and whether a SLICE_FORCED fence or a reclaim took part. -/
structure Turn where
  tgt : Target
  st : SliceSt
  pages : List Nat
  holder : Option Nat
  wraps : Nat
  forced : Bool
  reclaim : Bool
  deriving DecidableEq, Repr, Inhabited

/-- Where the mover's choice stands (R313): by class the pleacher to be served next, by class and pleacher
(8 * class + pleacher) the slot to be served next, and the grants to other classes an SC3 request has waited
through. -/
structure Grants where
  nextPl : Tab Nat 4
  nextSlot : Tab Nat 32
  waited : Nat
  deriving DecidableEq, Repr, Inhabited

/-- A hedgerow's fc-domain state. `starting` says that a START waits for READY and power (R364), `testCut` that
the slices of a re-admission test were stopped (R335). -/
structure Hedgerow where
  mgmtIn : Bool
  draining : Bool
  testing : Bool
  testRun : Bool
  testCut : Bool
  fenceCause : BitVec 3
  readmitRes : BitVec 3
  plFail : BitVec 8
  parity : Bool
  logicOff : Bool
  stopped : Bool
  stopping : Bool
  starting : Bool
  lsInit : BitVec 2
  hbInit : Bool
  lsRet : Tab Ret 8
  hbRet : Ret
  bistLast : W32
  cnt : HrCnt
  turn : Option Turn
  nextTgt : Nat
  grants : Grants
  xacts : List Xact
  deriving DecidableEq, Repr, Inhabited

/-! ### Period domains, remote windows, interface, wipe -/

/-- STATE of a period domain (R270). -/
inductive DomState
  | disabled | armed | running
  deriving DecidableEq, Repr, Inhabited

/-- A period domain (R270, R280, R284, R414). -/
structure Domain where
  st : DomState
  k : Nat
  pnum : W32
  phase : BitVec 24
  mark : Option W32
  wrap : Bool
  drop : Bool
  stall : Bool
  stalled : Bool
  late : W32
  discard : W32
  deriving DecidableEq, Repr, Inhabited

/-- An accepted inbound transaction (R296): its writes still to be acknowledged. -/
structure IwpTx where
  num : Nat
  win : BitVec 6
  src : BitVec 6
  id : BitVec 16
  left : Nat
  bad : Bool
  deriving DecidableEq, Repr, Inhabited

/-- A write of the IWP's local path, waiting or outstanding. -/
structure MwX where
  tag : Nat
  num : Nat
  addr : Nat
  sc : Nat
  data : List (Option Byte)
  timedOut : Bool
  deriving DecidableEq, Repr, Inhabited

/-- A response of the IWP (R308): sender, identifier, code; `win` is the window it answers for. -/
structure IwpResp where
  dst : BitVec 6
  id : BitVec 16
  code : BitVec 2
  win : BitVec 6
  deriving DecidableEq, Repr, Inhabited

/-- The inbound window port. -/
structure Iwp where
  opened : W32
  txs : List IwpTx
  next : Nat
  want : List MwX
  out : List MwX
  resps : List IwpResp
  deriving DecidableEq, Repr, Inhabited

/-- The interface pins in effect (R311, R318-R321). -/
structure Iface where
  clkReq : Bool
  clkAck : Bool
  quiesce : Bool
  train : Bool
  deriving DecidableEq, Repr, Inhabited

/-- A wipe of the privet bank (R202): none, waiting for fc, writing zeros, reading back. -/
inductive Wipe
  | none | waiting | zeroing | readback
  deriving DecidableEq, Repr, Inhabited

/-- The block counters of R399. -/
structure BlkCnt where
  claimWaits : W32
  cfpRdErr : W32
  cfpWrErr : W32
  fabStray : W32
  dtRmtWr : W32
  dtRmtRd : W32
  dtRmtRefused : W32
  iwpAccept : W32
  iwpDrop : W32
  iwpErr : W32
  deriving DecidableEq, Repr, Inhabited

/-- The memories descriptors and instructions address: hedge bank h at 2^20 h, leaf store g at
2^19 g, and the privet bank. -/
structure Mems where
  bank : Mem
  leaf : Mem
  privet : Mem
  deriving DecidableEq, Repr, Inhabited

/-- The network's view of one BIST controller (R323): the configuration word written to it, and whether it was
started. -/
structure BistCtl where
  num : Nat
  word : W32
  started : Bool
  deriving DecidableEq, Repr, Inhabited

/-- The fc-domain state. `stop` is a block stop in progress, true for a draining one (R362). `ctl` are the bytes
of control memory that the test network has written since the block last ran, latest first. `left` says that
MGMT_IN of every hedgerow has fallen in the stop in progress (R362). `cycle` counts the
cycles in which an ending status has arisen, and `tie` says that the command being carried out falls in the
latest of them (R238; log 77). -/
structure Eng where
  phase : Phase
  stop : Option Bool
  left : Bool
  privetOn : Bool
  errStatus : W32
  errHr : W32
  cnt : BlkCnt
  hed : Hedger
  jobs : List Job
  pl : Tab Pleacher 96
  hr : Tab Hedgerow 12
  mem : Mems
  dom : Tab Domain 16
  phVal : Phases
  phWrap : BitVec 6
  iwp : Iwp
  iface : Iface
  wipe : Wipe
  zeroize : Bool
  scanReady : Bool
  pvSlots : List Nat
  evts : Nat
  netData : W32
  ctl : List (Nat × Byte)
  bist : List BistCtl
  tie : Bool
  cycle : Nat
  stamp : Nat
  free : Nat
  deriving DecidableEq, Repr, Inhabited

/-- The state of the block. -/
structure State where
  env : Env
  eng : Eng
  pending : List Instr
  deriving DecidableEq, Repr

/-! ### Reset values -/

/-- The reset value of every RW field of the register window (R393, R402, R403). -/
def Regs.reset : Regs where
  genNeg := 0x00000001#32
  errEnable := 0x000007FF#32
  dbBaseLo := 0
  dbBaseHi := 0
  ringTblLo := 0
  ringTblHi := 0
  pollCfg := 0x08010400#32
  sliceCfg := 0x00101000#32
  fabTmo := 0x40404040#32
  memWake := 0x0FA007D0#32
  bistCfg := 0x00000100#32
  bistOppt := 0x035204E2#32
  nodeId := 0
  pd := Vector.replicate 16 ⟨0x00010000#32, 0⟩
  dt := Vector.replicate 32 ⟨0, 0, 0, 0, 0x000C0000#32⟩
  win := Vector.replicate 32 ⟨0, 0, 0⟩
  lend := Vector.replicate 96 0
  hr := Vector.replicate 12 ⟨0, 0, 0x00400010#32, 0, 0, 0, 0, 0, 0, 0⟩

/-- The security set-up and status after kz_por_n (R351). -/
def Sec.reset : Sec := ⟨0, 0, 0, 0, none, false, false, 0⟩

/-- The always-on state after kz_por_n (R358). -/
def AlwaysOn.reset : AlwaysOn := ⟨false, false, 0, 0, false, false, false⟩

/-- SPARE of a hedgerow after kz_por_n: 1 in KPE-H2 and KPE-H4, 0 otherwise (R8). -/
def spareReset (c : Cfg) : BitVec 2 :=
  match c.kind with
  | .h2 | .h4 => 1
  | .h8 | .h12 => 0

/-- Repair state after kz_por_n (R351). -/
def Rep.reset (c : Cfg) : Rep where
  leaf := Vector.replicate 96 ⟨0, [], []⟩
  hr := Vector.replicate 12 ⟨0, [], [], spareReset c, 0⟩
  log := []
  logLost := false
  pvFail := false
  pvLine := 0
  fuse := []

/-- The fabric accepts every class (log 35). -/
def Rdy.reset : Rdy := ⟨Vector.replicate 12 0xF, true, 0xF⟩

/-- Pins at power-on: kz_pwr_req 0 (R310); the inputs at 0 (log 23), the fabric ready. -/
def Pins.reset : Pins := ⟨Vector.replicate 12 0, Vector.replicate 12 0, false, false, false, false, Rdy.reset⟩

/-- The wrapper after kz_wrstn: WS_BYPASS, kz_wso 0 (R310; log 33). -/
def Wrapper.reset : Wrapper := ⟨.bypass, false, false⟩

/-- What kz_por_n leaves of the environment. -/
def Env.reset (c : Cfg) : Env :=
  ⟨c, Regs.reset, Sec.reset, AlwaysOn.reset, Rep.reset c, Pins.reset, Wrapper.reset, 0⟩

/-- A cleared context: registers, counters and headers 0 (R113; log 24). -/
def Ctx.reset : Ctx :=
  ⟨0, Vector.replicate 16 0, Vector.replicate 8 0, Vector.replicate 8 ⟨0, false, 0⟩, 0, []⟩

/-- Both latches empty. -/
def Latches.reset : Latches := ⟨none, none⟩

/-- A pleacher after a reset of the fc domain: no job, no routes (R105), empty headers (R114), empty latches. -/
def Pleacher.reset : Pleacher := ⟨.idle, 0, Ctx.reset, [], [], [], [], .none, [], none, Latches.reset, 0, none⟩

/-- A hedgerow after a reset of the fc domain. -/
def Hedgerow.reset : Hedgerow where
  mgmtIn := false
  draining := false
  testing := false
  testRun := false
  testCut := false
  fenceCause := 0
  readmitRes := 0
  plFail := 0
  parity := false
  logicOff := false
  stopped := false
  stopping := false
  starting := false
  lsInit := 0
  hbInit := false
  lsRet := Vector.replicate 8 .awake
  hbRet := .awake
  bistLast := 0
  cnt := ⟨0, 0, 0, 0, 0, 0, 0, 0, 0, 0, 0, 0, 0⟩
  turn := none
  nextTgt := 0
  grants := ⟨Vector.replicate 4 0, Vector.replicate 32 0, 0⟩
  xacts := []

/-- A period domain after a reset of the fc domain. -/
def Domain.reset : Domain := ⟨.disabled, 0, 0, 0, none, false, false, false, false, 0, 0⟩

/-- The Hedger after a reset of the fc domain (R24, R216, R246). -/
def Hedger.reset : Hedger := ⟨none, [], [], [], 0, 0, [], [], []⟩

/-- The fc-domain state while kz_rst_n is low (R351). -/
def Eng.reset : Eng where
  phase := .reset
  stop := none
  left := false
  privetOn := false
  errStatus := 0
  errHr := 0
  cnt := ⟨0, 0, 0, 0, 0, 0, 0, 0, 0, 0⟩
  hed := Hedger.reset
  jobs := []
  pl := Vector.replicate 96 Pleacher.reset
  hr := Vector.replicate 12 Hedgerow.reset
  mem := ⟨[], [], []⟩
  dom := Vector.replicate 16 Domain.reset
  phVal := Vector.replicate 6 0
  phWrap := 0
  iwp := ⟨0, [], 0, [], [], []⟩
  iface := ⟨false, false, false, false⟩
  wipe := .none
  zeroize := false
  scanReady := false
  pvSlots := []
  evts := 0
  netData := 0
  ctl := []
  bist := []
  tie := false
  cycle := 0
  stamp := 0
  free := 0

/-- The configuration of State.reset: KPE-H12, which carries every optional unit (log 1). -/
def Cfg.h12 : Cfg := ⟨.h12, true, true, true, true, true⟩

/-- The block right after kz_por_n has cleared everything, with kz_rst_n low (R351, R352). -/
def State.reset : State := ⟨Env.reset Cfg.h12, Eng.reset, []⟩

end Sys2Proof.Machine
end

