-- ==== Sys2Proof/Machine/Tensor.lean ====
section
/-! DEFINITION. Tensor descriptors: their fields, the place of every element, the espalier swizzles,
boxes, alignment (02_tensor_layouts, R32-R56). -/

namespace Sys2Proof.Machine

open Sys2Proof

/-- The tensor descriptor in the 96 bytes of `x` (R33). -/
def parseTensor (x : Nat) : TDesc where
  base := bits x 0 52
  fill := bits x 96 32
  rank := bits x 64 4
  space := bits x 68 4
  format := bits x 72 6
  store := bits x 78 2
  esp := bits x 80 2
  swzB := bits x 82 4
  swzM := bits x 86 3
  swzY := bits x 89 5
  planeStride := signed 40 (bits x 128 40)
  scaleBase := bits x 192 52
  extent := (upTo 8).map (fun d => bits x (256 + 64 * d) 24)
  stride := (upTo 8).map (fun d => signed 40 (bits x (256 + 64 * d + 24) 40))

/-- The element format (R57). -/
def TDesc.fmt (t : TDesc) : Fmt := fmtOf t.format

/-- Width w of an element. -/
def TDesc.w (t : TDesc) : Nat := t.fmt.width

/-- The effective rank r (R34). -/
def TDesc.r (t : TDesc) : Nat := if t.rank == 0 then 1 else min t.rank 8

/-- Extent of dimension d: 1 at and above the rank (R34). -/
def TDesc.ext (t : TDesc) (d : Nat) : Nat := if d < t.r then nth t.extent d 1 else 1

/-- Stride of dimension d; 0 at and above the rank, where the coordinate is 0 (R34). -/
def TDesc.str (t : TDesc) (d : Nat) : Int := if d < t.r then nth t.stride d 0 else 0

/-- The storage modes of R37. -/
inductive Store
  | natural | packed | plane
  deriving DecidableEq, Repr, Inhabited

/-- How the elements are stored (R37, R59). -/
def TDesc.storage (t : TDesc) : Store :=
  if t.store == 1 || t.w == 2 || t.w == 3 || t.w == 5 || t.w == 6 then .plane
  else if t.w == 4 then .packed
  else .natural

/-- The memory a space code names for pleacher `g` (R35, R47); codes 4-15 are taken as 0. -/
def instOf (g space : Nat) : Inst :=
  match space with
  | 1 => .bank (g / 8)
  | 2 => .leaf g
  | 3 => .privet
  | _ => .host

/-- The reduction of R35. -/
def reduceAt (space a : Nat) : Nat :=
  match space with
  | 1 => a % 2 ^ 20
  | 2 => a % 2 ^ 19
  | 3 => a % 2 ^ 19
  | _ => a % 2 ^ 52

/-- Number of elements: the product of the extents below the rank (R48). -/
def TDesc.count (t : TDesc) : Nat := (upTo 8).foldl (fun n d => n * t.ext d) 1

/-- Whether the tensor has no elements (R48). -/
def TDesc.empty (t : TDesc) : Bool := t.count == 0

/-- The coordinate of linear index `i` (R36). -/
def coordOf (exts : List Nat) (i : Nat) : List Nat :=
  match exts with
  | [] => []
  | e :: r => (if e == 0 then 0 else i % e) :: coordOf r (if e == 0 then 0 else i / e)

/-- The linear index of a coordinate (R36). -/
def linearOf (exts c : List Nat) : Nat :=
  match exts, c with
  | e :: r, x :: y => x + e * linearOf r y
  | _, _ => 0

/-- The extents of all eight dimensions. -/
def TDesc.exts (t : TDesc) : List Nat := (upTo 8).map t.ext

/-- The coordinate of linear index `i`. -/
def TDesc.coord (t : TDesc) (i : Nat) : List Nat := coordOf t.exts i

/-- The linear index of a coordinate. -/
def TDesc.linear (t : TDesc) (c : List Nat) : Nat := linearOf t.exts c

/-- The espalier function (R45). -/
def TDesc.swz (t : TDesc) (o : BitVec 64) (q : Nat) : BitVec 64 :=
  if t.esp == 0 || t.swzM == 0 then o
  else
    let mask : BitVec 64 := BitVec.ofNat 64 (2 ^ t.swzM - 1)
    let k := o.sshiftRight t.swzY
    let k := if t.esp == 2 then k ^^^ o.sshiftRight (t.swzY + t.swzM) else k
    let k := if t.esp == 3 then k ^^^ BitVec.ofNat 64 q else k
    o ^^^ ((k &&& mask) <<< t.swzB)

/-- Σ c_d × STRIDE_d over first ≤ d < r. -/
def TDesc.rowsOff (t : TDesc) (first : Nat) (c : List Nat) : Int :=
  (upTo 8).foldl (fun a d => if first ≤ d then a + ((nth c d 0 : Nat) : Int) * t.str d else a) 0

/-- Bits of an element in one byte of memory: `n` bits from bit `sh` of the byte at `addr` carry bits
[pos+n-1:pos] of the encoding. `un` is the address before its reduction. -/
structure Piece where
  un : Int
  addr : Nat
  sh : Nat
  n : Nat
  pos : Nat
  deriving DecidableEq, Repr, Inhabited

/-- A piece at BASE plus an offset (R42). -/
def TDesc.piece (t : TDesc) (o : BitVec 64) (sh n pos : Nat) : Piece :=
  let a := BitVec.ofNat 64 t.base + o
  ⟨a.toInt, reduceAt t.space a.toNat, sh, n, pos⟩

/-- Where the bits of the element at coordinate `c` lie (R38, R39, R40). -/
def TDesc.pieces (t : TDesc) (c : List Nat) : List Piece :=
  match t.storage with
  | .natural =>
    let o := BitVec.ofInt 64 (t.rowsOff 0 c)
    (upTo (t.w / 8)).map (fun i => t.piece (t.swz (o + BitVec.ofNat 64 i) 0) 0 8 (8 * i))
  | .packed =>
    let o := BitVec.ofInt 64 (((nth c 0 0 / 2 : Nat) : Int) + t.rowsOff 1 c)
    [t.piece (t.swz o 0) (4 * (nth c 0 0 % 2)) 4 0]
  | .plane =>
    let o := BitVec.ofInt 64 (((nth c 0 0 / 8 : Nat) : Int) + t.rowsOff 1 c)
    (upTo t.w).map (fun (q : Nat) =>
      t.piece (BitVec.ofInt 64 ((q : Int) * t.planeStride) + t.swz o q) (nth c 0 0 % 8) 1 q)

/-- Number of MX blocks along dimension 0 (R41). -/
def TDesc.n0 (t : TDesc) : Nat := ceilDiv (t.ext 0) 32

/-- The shared scale of the element at `c` as a whole-byte piece (R41). -/
def TDesc.scalePiece (t : TDesc) (c : List Nat) : Piece :=
  let a := t.scaleBase + nth c 0 0 / 32 + t.n0 * linearOf (t.exts.drop 1) (c.drop 1)
  ⟨(a : Int), reduceAt t.space a, 0, 8, 0⟩

/-- Every piece the element at `c` is read from, its scale included. -/
def TDesc.reads (t : TDesc) (c : List Nat) : List Piece :=
  t.pieces c ++ (if t.fmt.isMx then [t.scalePiece c] else [])

/-- The encoding put together from its pieces. -/
def readPieces (get : Piece → Byte) (ps : List Piece) : Nat :=
  ps.foldl (fun x p => x + (bits (get p).toNat p.sh p.n) <<< p.pos) 0

/-- The effective bounds [lo, hi) of the element box (R47), unreduced; none for an empty tensor. The sums are
plain integers, as in R47's sketch, also where they pass 64 bits (log 66). -/
def TDesc.mainBox (t : TDesc) : Option (Int × Int) :=
  if t.empty then none
  else
    let first := match t.storage with | .natural => 0 | _ => 1
    let tail : Int :=
      match t.storage with
      | .plane => ((t.ext 0 - 1) / 8 + 1 : Nat)
      | .packed => ((t.ext 0 - 1) / 2 + 1 : Nat)
      | .natural => (t.w / 8 : Nat)
    let span (d : Nat) : Int := if first ≤ d then ((t.ext d : Int) - 1) * t.str d else 0
    let lo := (upTo 8).foldl (fun a d => a + min 0 (span d)) 0
    let hi := (upTo 8).foldl (fun a d => a + max 0 (span d)) 0 + tail
    let g : Int := 2 ^ (t.swzB + t.swzM)
    let swizzled := t.esp != 0 && t.swzM != 0
    let lo := if swizzled then lo / g * g else lo
    let hi := if swizzled then (hi + g - 1) / g * g else hi
    let plane := t.storage == .plane
    let reach : Int := ((t.w : Int) - 1) * t.planeStride
    let lo := if plane then lo + min 0 reach else lo
    let hi := if plane then hi + max 0 reach else hi
    some ((t.base : Int) + lo, (t.base : Int) + hi)

/-- The scale box of an MX tensor (R47). -/
def TDesc.scaleBox (t : TDesc) : Option (Int × Int) :=
  if t.empty || !t.fmt.isMx then none
  else
    let n : Nat := t.n0 * ((t.exts.drop 1).foldl (fun a e => a * e) 1)
    some ((t.scaleBase : Int), (t.scaleBase : Int) + n)

/-- Every box of a tensor (R47). -/
def TDesc.boxes (t : TDesc) : List (Int × Int) := t.mainBox.toList ++ t.scaleBox.toList

/-- Whether two ranges intersect (R49). -/
def rangesMeet (a b : Int × Int) : Bool := decide (a.1 < b.2) && decide (b.1 < a.2)

/-- Alignment to 64 of a tensor (R54). -/
def TDesc.aligned (t : TDesc) : Bool :=
  t.empty ||
  (t.base % 64 == 0 &&
   (upTo 8).all (fun d => d == 0 || decide (t.r ≤ d) || decide (t.ext d ≤ 1) || t.str d % 64 == 0) &&
   (t.storage != .plane || t.planeStride % 64 == 0) &&
   (!t.fmt.isMx || t.scaleBase % 64 == 0))

/-- FILL as an encoding of the tensor's format (R52). -/
def TDesc.fillEnc (t : TDesc) : Nat := t.fill % 2 ^ t.w

end Sys2Proof.Machine
end

