-- ==== Sys2Proof/Machine/Memory.lean ====
section
/-! DEFINITION. The memories: the canonical list of bytes, and the leaf stores, hedge banks and privet
bank over it (08_memories; R35, R185, R190, R195, R199). -/

namespace Sys2Proof.Machine

open Sys2Proof

/-- The byte at `a`; an unlisted byte reads 0 (log 11). -/
def Mem.byte : Mem → Nat → Byte
  | [], _ => 0
  | (k, x) :: r, a => if k = a then x else Mem.byte r a

/-- The memory with byte `x` at `a`; a zero is not listed. -/
def Mem.put : Mem → Nat → Byte → Mem
  | [], a, x => if x = 0 then [] else [(a, x)]
  | (k, y) :: r, a, x =>
    if a < k then (if x = 0 then (k, y) :: r else (a, x) :: (k, y) :: r)
    else if a = k then (if x = 0 then r else (a, x) :: r)
    else (k, y) :: Mem.put r a x

/-- The canonical form: addresses strictly rising, no zero listed. -/
abbrev Mem.wf (m : Mem) : Prop :=
  List.Pairwise (fun (a b : Host.Cell) => a.1 < b.1) m ∧ ∀ c ∈ m, c.2 ≠ 0

/-- Consecutive bytes written from `a` on. -/
def Mem.putBytes : Mem → Nat → List Byte → Mem
  | m, _, [] => m
  | m, a, x :: r => Mem.putBytes (Mem.put m a x) (a + 1) r

/-- `n` bytes zeroed from `a` on. -/
def Mem.clear (m : Mem) (a n : Nat) : Mem := m.filter (fun c => c.1 < a || a + n ≤ c.1)

/-- `n` bytes read from `a` on. -/
def Mem.bytes (m : Mem) (a n : Nat) : List Byte := (upTo n).map (fun i => Mem.byte m (a + i))

/-- First offset of a leaf store that holds no row (R35, R185). -/
def leafEnd : Nat := 0x60000

/-- Where byte `a` of a memory is kept: its pool and its place there. -/
def bankKey (h a : Nat) : Nat := 2 ^ 20 * h + a % 2 ^ 20

/-- The key of a leaf-store byte. -/
def leafKey (g a : Nat) : Nat := 2 ^ 19 * g + a % 2 ^ 19

/-- A byte of an on-block memory; host memory is not part of the state (log 7). -/
def Mems.byte (m : Mems) (i : Inst) (a : Nat) : Byte :=
  match i with
  | .host => 0
  | .bank h => Mem.byte m.bank (bankKey h a)
  | .leaf g => if a % 2 ^ 19 < leafEnd then Mem.byte m.leaf (leafKey g a) else 0
  | .privet => Mem.byte m.privet (a % 2 ^ 19)

/-- A byte written; a leaf-store offset that holds no row drops the write (R35). -/
def Mems.put (m : Mems) (i : Inst) (a : Nat) (x : Byte) : Mems :=
  match i with
  | .host => m
  | .bank h => { m with bank := Mem.put m.bank (bankKey h a) x }
  | .leaf g => if a % 2 ^ 19 < leafEnd then { m with leaf := Mem.put m.leaf (leafKey g a) x } else m
  | .privet => { m with privet := Mem.put m.privet (a % 2 ^ 19) x }

/-- Consecutive bytes written, each address reduced by its memory. -/
def Mems.putBytes : Mems → Inst → Nat → List Byte → Mems
  | m, _, _, [] => m
  | m, i, a, x :: r => Mems.putBytes (m.put i a x) i (a + 1) r

/-- `n` bytes read. -/
def Mems.bytes (m : Mems) (i : Inst) (a n : Nat) : List Byte := (upTo n).map (fun k => m.byte i (a + k))

/-- Every byte of a leaf store zeroed. -/
def Mems.clearLeaf (m : Mems) (g : Nat) : Mems := { m with leaf := Mem.clear m.leaf (2 ^ 19 * g) (2 ^ 19) }

/-- Every byte of a hedge bank zeroed. -/
def Mems.clearBank (m : Mems) (h : Nat) : Mems := { m with bank := Mem.clear m.bank (2 ^ 20 * h) (2 ^ 20) }

/-- A bit-set write of a 32-bit half word (R195). -/
def aliasSet (old pat : BitVec 32) : BitVec 32 := old ||| pat

/-- A bit-clear write of a 32-bit half word (R195). -/
def aliasClear (old pat : BitVec 32) : BitVec 32 := old &&& ~~~pat

/-- A 32-bit little-endian word of a memory. -/
def Mems.word (m : Mems) (i : Inst) (a : Nat) : W32 := BitVec.ofNat 32 (leNat (m.bytes i a 4))

/-- A 32-bit little-endian word written. -/
def Mems.putWord (m : Mems) (i : Inst) (a : Nat) (x : W32) : Mems := m.putBytes i a (leBytes 4 x.toNat)

end Sys2Proof.Machine
end

