-- ==== Sys2Proof/Machine/Routes.lean ====
section
/-! DEFINITION. Route selectors, pattern generators, the looping algorithm, the row's path through the
bit-plane stages and the crossbar, the route cache and the binding list (04_crossbar_and_routes). -/

namespace Sys2Proof.Machine

open Sys2Proof

/-- CLASS of a selector (R89); 9-15 are taken as 0. -/
def selClass (sel : W64) : Nat :=
  let c := bits sel.toNat 60 4
  if c ≤ 8 then c else 0

/-- GRAIN (R89); 6 and 7 are taken as 5. -/
def selGrain (sel : W64) : Nat := min 5 (bits sel.toNat 57 3)

/-- FRONT (R89). -/
def selFront (sel : W64) : Bool := sel.toNat.testBit 56

/-- BACK (R89). -/
def selBack (sel : W64) : Bool := sel.toNat.testBit 55

/-- MAP_SPACE, as the bit (R95). -/
def selMapSpace (sel : W64) : Nat := bits sel.toNat 54 1

/-- MAP_ADDR (R95). -/
def selMapAddr (sel : W64) : Nat := bits sel.toNat 34 20

/-- ROUTE_ID (R95). -/
def selId (sel : W64) : W32 := BitVec.ofNat 32 (bits sel.toNat 0 32)

/-- Whether a selector names a map or a cached route. -/
def selMapped (sel : W64) : Bool := selClass sel == 7 || selClass sel == 8

/-- Width u of a unit number (R90). -/
def unitBits (grain : Nat) : Nat := 9 - grain

/-- M of R91: 0 or above u is taken as u. -/
def segWidth (m u : Nat) : Nat := if m == 0 || m > u then u else m

/-- The `m`-bit left rotation of `x` by `t` places (R91). -/
def rotl (m x t : Nat) : Nat :=
  if m == 0 then x
  else
    let k := t % m
    (x * 2 ^ k) % 2 ^ m + x / 2 ^ (m - k) % 2 ^ k

/-- The low `m` bits of `x` in reverse order (R91). -/
def revBits : Nat → Nat → Nat
  | 0, _ => 0
  | m + 1, x => (x % 2) * 2 ^ m + revBits m (x / 2)

/-- The local source of XORF (R92). -/
def xorfSrc (u b fm y jl : Nat) : Nat :=
  let cleared := jl - (bits jl b fm) <<< b
  let k := bits cleared y fm
  jl ^^^ ((k <<< b) % 2 ^ u)

/-- The local source of ILV (R93). -/
def ilvSrc (m a s : Nat) (dir : Bool) (jl : Nat) : Nat :=
  if a ≥ m || s == 0 then jl
  else
    let s := if a + s > m then m - a else s
    let n := m - a
    let jb := jl / 2 ^ a
    rotl n jb (if dir then s else n - s) * 2 ^ a + jl % 2 ^ a

/-- The source unit of output unit `j` under a generator, for row `r` of the instruction (R91-R93). -/
def genSrc (sel : W64) (r j : Nat) : Nat :=
  let u := unitBits (selGrain sel)
  let p (lo n : Nat) : Nat := bits sel.toNat lo n
  let seg (m : Nat) (f : Nat → Nat) : Nat := (j / 2 ^ m) * 2 ^ m + f (j % 2 ^ m)
  match selClass sel with
  | 1 =>
    let m := segWidth (p 0 4) u
    seg m (fun jl => (jl + p 4 9 + r * p 13 9) % 2 ^ m)
  | 2 =>
    let m := segWidth (p 0 4) u
    seg m (fun jl => rotl m jl (p 4 4 % m))
  | 3 =>
    let m := segWidth (p 0 4) u
    seg m (fun jl => revBits m jl)
  | 4 => j ^^^ (p 0 9 % 2 ^ u)
  | 5 => xorfSrc u (p 0 4) (p 4 3) (p 8 4) j
  | 6 => ilvSrc u (p 0 4) (p 4 4) (bitOn (p 8 1) 0) j
  | _ => j

/-- The source units of a generator route, in the order of the output units. -/
def genUnits (sel : W64) (r : Nat) : List Nat :=
  (upTo (2 ^ unitBits (selGrain sel))).map (fun j => genSrc sel r j)

/-- First pass of R96: an entry already taken by a lower one becomes unassigned. -/
def claimSources : List Nat → List Nat → List (Option Nat)
  | [], _ => []
  | x :: r, seen => if seen.contains x then none :: claimSources r seen else some x :: claimSources r (x :: seen)

/-- Second pass of R96: the unassigned outputs take the free sources in ascending order. -/
def fillSources : List (Option Nat) → List Nat → List Nat
  | [], _ => []
  | some x :: r, free => x :: fillSources r free
  | none :: r, [] => 0 :: fillSources r []
  | none :: r, f :: free => f :: fillSources r free

/-- A map made into a permutation (R96). -/
def normalizeMap (xs : List Nat) : List Nat :=
  fillSources (claimSources xs []) ((upTo xs.length).filter (fun i => !xs.contains i))

/-- The source lane of output lane `l` for a route of source units at `grain` (R90). -/
def laneSrc (grain : Nat) (src : List Nat) (l : Nat) : Nat :=
  nth src (l / 2 ^ grain) 0 * 2 ^ grain + l % 2 ^ grain

/-- Position of a value in a list. -/
def placeOf (xs : List Nat) (x : Nat) : Nat := xs.findIdx (fun y => y == x)

/-- One loop of R97 in a subnetwork of `2 * half` positions whose output `o` receives input `src[o]`:
from output switch `k` with setting `cross`, until the loop closes. -/
def walkLoop (half : Nat) (src : List Nat) : Nat → Nat → Bool →
    List (Option Bool) × List (Option Bool) → List (Option Bool) × List (Option Bool)
  | 0, _, _, st => st
  | fuel + 1, k, cross, (outS, inS) =>
    let outS := outS.set k (some cross)
    let i := nth src (if cross then k + half else k) 0
    let inS := inS.set (i % half) (some (decide (half ≤ i)))
    let partner := if half ≤ i then i - half else i + half
    let o := placeOf src partner
    if (nth outS (o % half) none).isSome then (outS, inS)
    else walkLoop half src fuel (o % half) (decide (o < half)) (outS, inS)

/-- Every loop of a subnetwork, each begun at the lowest-numbered unset output switch, straight (R97). -/
def allLoops (half : Nat) (src : List Nat) : List Nat →
    List (Option Bool) × List (Option Bool) → List (Option Bool) × List (Option Bool)
  | [], st => st
  | k :: r, st =>
    if (nth st.1 k none).isSome then allLoops half src r st
    else allLoops half src r (walkLoop half src half k false st)

/-- The crossed switches of the subnetwork `sub` at level `l` whose outputs receive the inputs `src`, as
setting-bit numbers 256 s + k (R85, R97); `fuel` is 9 - l. -/
def subSettings : Nat → Nat → Nat → List Nat → List Nat
  | 0, _, _, _ => []
  | 1, l, sub, src => if nth src 0 0 == 1 then [256 * l + sub] else []
  | fuel + 2, l, sub, src =>
    let half := 2 ^ (fuel + 1)
    let none0 : List (Option Bool) := List.replicate half none
    let st := allLoops half src (upTo half) (none0, none0)
    let crossed (s : Nat) (xs : List (Option Bool)) : List Nat :=
      ((upTo half).filter (fun k => nth xs k none == some true)).map (fun k => 256 * s + sub * half + k)
    let upper := (upTo half).map (fun k =>
      nth src (if nth st.1 k none == some true then k + half else k) 0 % half)
    let lower := (upTo half).map (fun k =>
      nth src (if nth st.1 k none == some true then k else k + half) 0 % half)
    crossed l st.2 ++ crossed (16 - l) st.1 ++
      subSettings (fuel + 1) (l + 1) (2 * sub) upper ++
      subSettings (fuel + 1) (l + 1) (2 * sub + 1) lower

/-- The 4352 settings of the route of a normalized map (R85, R97). -/
def routeSettings (grain : Nat) (src : List Nat) : Nat :=
  let lanes := (upTo 512).map (fun l => laneSrc grain src l)
  (subSettings 9 0 0 lanes).foldl (fun a b => a + 2 ^ b) 0

/-- The bit-plane transpose of a row (R87). -/
def planeTranspose (row : List Byte) : List Byte :=
  (upTo row.length).map (fun i =>
    let base := i - i % 8
    BitVec.ofNat 8 (flagBits ((upTo 8).map (fun j => bitOn (nth row (base + j) 0).toNat (i % 8)))))

/-- d(s): the position bit on which stage `s` pairs (R84). -/
def stageBit (s : Nat) : Nat := if s ≤ 8 then 8 - s else s - 8

/-- The switch of stage `s` that joins position `x`: its number without bit d(s) (R85). -/
def switchOf (s x : Nat) : Nat := x / 2 ^ (stageBit s + 1) * 2 ^ stageBit s + x % 2 ^ stageBit s

/-- The position from which stage `s` takes the byte of position `x`: its own with setting 0, its partner's
with setting 1 (R85). -/
def stageSrc (settings s x : Nat) : Nat :=
  if bitOn settings (256 * s + switchOf s x) then x ^^^ 2 ^ stageBit s else x

/-- A row through one stage (R84, R85). -/
def crossStage (settings : Nat) (row : List Byte) (s : Nat) : List Byte :=
  (upTo 512).map (fun x => nth row (stageSrc settings s x) 0)

/-- A row through the 17 stages of the crossbar (R84). -/
def crossbar (settings : Nat) (row : List Byte) : List Byte := (upTo 17).foldl (crossStage settings) row

/-- A row through the front bit-plane stage, the crossbar and the back one (R86, R87). -/
def passRow (sel : W64) (settings : Nat) (row : List Byte) : List Byte :=
  let row := if selFront sel then planeTranspose row else row
  let row := crossbar settings row
  if selBack sel then planeTranspose row else row

/-- The settings a generator produces for row `r`: of those that realize its permutation, the ones R97 would
build; by R86 the choice changes no row (log 74). -/
def genSettings (sel : W64) (r : Nat) : Nat := routeSettings (selGrain sel) (genUnits sel r)

/-- Row `r` under a generator selector. -/
def genRow (sel : W64) (r : Nat) (row : List Byte) : List Byte := passRow sel (genSettings sel r) row

/-! ### Cache and binding list -/

/-- Number of sets of a pleacher's cache: 16, or 4 without the extended cache (R9, R99). -/
def cacheSets (c : Cfg) : Nat :=
  match c.kind with
  | .h8 | .h12 => 16
  | .h2 | .h4 => if c.optRcExt then 16 else 4

/-- The set an identifier selects (R99). -/
def cacheSet (sets : Nat) (id : W32) : Nat :=
  ((upTo 8).foldl (fun a i => a ^^^ bits id.toNat (4 * i) 4) 0) % sets

/-- The valid way that holds an identifier, if any (R99). -/
def cacheFind (sets : Nat) (rs : List Route) (id : W32) : Option Route :=
  rs.find? (fun r => r.set == cacheSet sets id && r.id == id)

/-- The hit way becomes the most recently used; `rs` lists the most recently used first (R100). -/
def cacheTouch (rs : List Route) (r : Route) : List Route :=
  r :: rs.filter (fun x => !(x.set == r.set && x.way == r.way))

/-- A built route is installed in the lowest invalid way of its set, or in the least recently used one
(R100). -/
def cacheInstall (sets : Nat) (rs : List Route) (b : Build) : List Route :=
  let set := cacheSet sets b.id
  let mine := rs.filter (fun r => r.set == set)
  let way :=
    match (upTo 4).find? (fun w => !mine.any (fun r => r.way == w)) with
    | some w => w
    | none => (mine.getLast?.map (fun r => r.way)).getD 0
  ⟨set, way, b.id, b.grain, b.src, routeSettings b.grain b.src⟩ ::
    rs.filter (fun r => !(r.set == set && r.way == way))

/-- A MAP selector adds or replaces a binding; a full list drops its earliest entry (R101). -/
def bindRoute (bs : List Binding) (b : Binding) : List Binding :=
  if bs.any (fun x => x.id == b.id) then bs.map (fun x => if x.id == b.id then b else x)
  else (if bs.length ≥ 16 then bs.drop 1 else bs) ++ [b]

/-- The binding of a MAP selector (R101). -/
def bindingOf (sel : W64) : Binding := ⟨selId sel, selMapSpace sel, selMapAddr sel, selGrain sel⟩

/-- The byte offset at which a map begins (R95): row-aligned in the leaf store, 64-aligned in the hedge
bank. -/
def mapStart (b : Binding) : Nat :=
  if b.space == 1 then b.addr % 2 ^ 19 / 512 * 512 else b.addr % 2 ^ 20 / 64 * 64

/-- The entries of a map, read through `get` (R94). -/
def mapEntries (grain : Nat) (get : Nat → Byte) : List Nat :=
  let u := unitBits grain
  (upTo (2 ^ u)).map (fun j => ((get (2 * j)).toNat + 256 * (get (2 * j + 1)).toNat) % 2 ^ u)

end Sys2Proof.Machine
end

