-- ==== Sys2Proof/Machine/Operands.lean ====
section
/-! DEFINITION. Instruction fields, tile shapes and register images, shape checks, and what each tile
operation computes (05_tile_registers, 06_pleacher_instructions). -/

namespace Sys2Proof.Machine

open Sys2Proof

/-! ### Instruction fields (R131) -/

/-- OP. -/
def opOf (i : Insn) : Nat := bits i.toNat 26 6
/-- TD. -/
def tdOf (i : Insn) : Nat := bits i.toNat 23 3
/-- TA. -/
def taOf (i : Insn) : Nat := bits i.toNat 20 3
/-- TB. -/
def tbOf (i : Insn) : Nat := bits i.toNat 17 3
/-- AX. -/
def axOf (i : Insn) : Nat := bits i.toNat 13 4
/-- Bits [lo+n-1:lo] of SUB. -/
def subOf (i : Insn) (lo n : Nat) : Nat := bits i.toNat lo n
/-- W1. -/
def w1Of (i : Insn) : W32 := BitVec.ofNat 32 (bits i.toNat 32 32)
/-- W2. -/
def w2Of (i : Insn) : W32 := BitVec.ofNat 32 (bits i.toNat 64 32)
/-- W3. -/
def w3Of (i : Insn) : W32 := BitVec.ofNat 32 (bits i.toNat 96 32)
/-- The immediate in bits [95:32] (R134). -/
def immOf (i : Insn) : W64 := BitVec.ofNat 64 (bits i.toNat 32 64)

/-! ### Shapes -/

/-- A shape field without its OPFLAGS (R109). -/
structure Shape where
  rows : Nat
  cols : Nat
  format : Nat
  planes : Bool
  deriving DecidableEq, Repr, Inhabited

/-- The shape in a 32-bit field (R109). -/
def shapeOf (w : W32) : Shape :=
  ⟨bits w.toNat 23 9, bits w.toNat 14 9, bits w.toNat 8 6, bitOn w.toNat 7⟩

/-- The element format of a shape. -/
def Shape.fmt (s : Shape) : Fmt := fmtOf s.format

/-- The element width of a shape. -/
def Shape.w (s : Shape) : Nat := s.fmt.width

/-- Which layout of R111 the image has. -/
def Shape.layout (s : Shape) : Store :=
  if s.planes || s.w == 2 || s.w == 3 || s.w == 5 || s.w == 6 then .plane
  else if s.w == 4 then .packed
  else .natural

/-- Row bytes b (R111). -/
def Shape.rowBytes (s : Shape) : Nat :=
  match s.layout with
  | .natural => s.cols * (s.w / 8)
  | .packed => ceilDiv s.cols 2
  | .plane => ceilDiv s.cols 8

/-- The smallest power of two at least `b`. -/
def pow2Up (b : Nat) : Nat := if b ≤ 1 then 1 else 2 ^ (lg (b - 1) + 1)

/-- Pitch p (R111). -/
def Shape.pitch (s : Shape) : Nat := pow2Up s.rowBytes

/-- Footprint F in bytes (R112). -/
def Shape.bytes (s : Shape) : Nat :=
  match s.layout with
  | .plane => s.w * s.rows * s.pitch
  | _ => s.rows * s.pitch

/-- Footprint FOOT in register rows (R112). -/
def Shape.foot (s : Shape) : Nat := ceilDiv s.bytes 512

/-- Byte `o` of the image whose elements are given by `elem`; a bit that belongs to no element is 0
(R111, R112). -/
def imageByte (s : Shape) (elem : Nat → Nat → Nat) (o : Nat) : Byte :=
  let p := s.pitch
  match s.layout with
  | .natural =>
    if o / p < s.rows ∧ o % p < s.rowBytes then
      BitVec.ofNat 8 (bits (elem (o / p) (o % p / (s.w / 8))) (8 * (o % p % (s.w / 8))) 8)
    else 0
  | .packed =>
    if o / p < s.rows ∧ o % p < s.rowBytes then
      let j := 2 * (o % p)
      let hi := if j + 1 < s.cols then elem (o / p) (j + 1) % 16 else 0
      BitVec.ofNat 8 (elem (o / p) j % 16 + 16 * hi)
    else 0
  | .plane =>
    let q := o / (s.rows * p)
    let x := o % (s.rows * p)
    if q < s.w ∧ x % p < s.rowBytes then
      BitVec.ofNat 8 (flagBits ((upTo 8).map (fun k =>
        decide (8 * (x % p) + k < s.cols) && bitOn (elem (x / p) (8 * (x % p) + k)) q)))
    else 0

/-- The first `n` bytes of an image. -/
def imageOf (s : Shape) (n : Nat) (elem : Nat → Nat → Nat) : List Byte :=
  (upTo n).map (imageByte s elem)

/-- The image offsets that hold bits of element (i, j) (R111). -/
def elemBytes (s : Shape) (i j : Nat) : List Nat :=
  let p := s.pitch
  match s.layout with
  | .natural => (upTo (s.w / 8)).map (fun t => i * p + j * (s.w / 8) + t)
  | .packed => [i * p + j / 2]
  | .plane => (upTo s.w).map (fun q => q * s.rows * p + i * p + j / 8)

/-- Element (i, j) of an image read through `get` (R111). -/
def elemAt (s : Shape) (get : Nat → Byte) (i j : Nat) : Nat :=
  let p := s.pitch
  match s.layout with
  | .natural => leNat ((upTo (s.w / 8)).map (fun t => get (i * p + j * (s.w / 8) + t)))
  | .packed => bits (get (i * p + j / 2)).toNat (4 * (j % 2)) 4
  | .plane => flagBits ((upTo s.w).map (fun q => bitOn (get (q * s.rows * p + i * p + j / 8)).toNat (j % 8)))

/-- An image reduced to the bits of its elements (R112). -/
def maskImage (s : Shape) (n : Nat) (get : Nat → Byte) : List Byte :=
  imageOf s n (elemAt s get)

/-- Byte `o` of a list, 0 beyond its end. -/
def byteAt (xs : List Byte) (o : Nat) : Byte := nth xs o 0

/-! ### Shape checks -/

/-- SHAPE_FAULT of a tile register operand (R110). -/
def Shape.bad (s : Shape) : Bool :=
  s.rows == 0 || decide (256 < s.rows) || s.cols == 0 || decide (256 < s.cols) || s.fmt.isMx ||
  decide (8192 < s.bytes)

/-- ROWS and COLS of a memory shape (R154). -/
def Shape.badMem (s : Shape) : Bool :=
  s.rows == 0 || decide (256 < s.rows) || s.cols == 0 || decide (256 < s.cols)

/-- A natural image of 8-, 16- or 32-bit elements (R154). -/
def Shape.natural (s : Shape) : Bool := s.layout == .natural

/-- The TXP rule of R154. -/
def badTxp (a d : Shape) : Bool :=
  a.fmt != d.fmt || !a.natural || !d.natural || d.rows != a.cols || d.cols != a.rows

/-- The intermediate tile of R143. -/
def midShape (mem tile : Shape) : Shape := ⟨mem.rows, mem.cols, tile.format, false⟩

/-- The rules of R154 for TLD and TST. -/
def badMove (trans : Bool) (mem tile : Shape) : Bool :=
  mem.badMem ||
  (if trans then
    mem.rows != tile.cols || mem.cols != tile.rows ||
    decide (8192 < (midShape mem tile).bytes) || badTxp (midShape mem tile) tile
   else mem.rows != tile.rows || mem.cols != tile.cols)

/-- An index format of R154. -/
def indexFormat (s : Shape) : Bool :=
  s.format == 0x06 || s.format == 0x0E || s.format == 0x07 || s.format == 0x0F

/-- The rules of R154 for TGATH and TSCAT; `side` is the side the index tile is laid over. PLANES is compared as the
raw bit, also at the widths at which R109 ignores it (log 72). -/
def badIndex (dim : Nat) (a b d side : Shape) : Bool :=
  a.fmt != d.fmt || a.planes != d.planes || !indexFormat b || b.layout == .plane ||
  (if dim == 0 then
    a.rows != d.rows || a.pitch != d.pitch || !a.natural ||
    !((b.rows == side.rows || b.rows == 1) && b.cols == side.cols)
   else !(b.rows == 1 && b.cols == side.rows) || a.cols != d.cols)

/-- The rule of R154 for TSWZ. -/
def badSwz (esp m b : Nat) (a d : Shape) : Bool :=
  a.foot != d.foot || (esp != 0 && m != 0 && decide (9 < b + m))

/-- The rules of R154 for TCAT. -/
def badCat (dim : Nat) (a b d : Shape) : Bool :=
  a.fmt != d.fmt || b.fmt != d.fmt || a.layout == .plane || b.layout == .plane || d.layout == .plane ||
  (if dim == 0 then a.rows != d.rows || b.rows != d.rows || d.cols != a.cols + b.cols
   else a.cols != d.cols || b.cols != d.cols || d.rows != a.rows + b.rows ||
     (a.rows * d.pitch) % 512 != 0)

/-- SHAPE_FAULT of an instruction at issue (R110, R154); the opcode has been read. -/
def shapeFault (i : Insn) : Bool :=
  let a := shapeOf (w2Of i)
  let b := shapeOf (w1Of i)
  let d := shapeOf (w3Of i)
  let dim := subOf i 0 1
  match opOf i with
  | 0x01 => d.bad || badMove (bitOn (subOf i 3 1) 0) a d
  | 0x02 => a.bad || badMove (bitOn (subOf i 3 1) 0) d a
  | 0x03 => a.bad || d.bad
  | 0x04 => a.bad || d.bad || badTxp a d
  | 0x05 => a.bad || b.bad || d.bad || badIndex dim a b d d
  | 0x06 => a.bad || b.bad || d.bad || badIndex dim a b d a
  | 0x07 => a.bad || d.bad || a.rows != d.rows || a.cols != d.cols
  | 0x08 => a.bad || d.bad || badSwz (subOf i 0 2) (bits i.toNat 36 3) (bits i.toNat 32 4) a d
  | 0x09 => d.bad || (subOf i 0 1 == 1 && (a.bad || a.fmt != d.fmt))
  | 0x0A => a.bad || b.bad || d.bad || badCat dim a b d
  | 0x0B =>
    match subOf i 0 3 with
    | 0 => a.bad || d.bad || a.rows != d.rows || a.cols != d.cols
    | 1 => subOf i 3 1 == 1 && d.bad
    | _ => false
  | _ => false

/-- A converting instruction (R143). -/
def converting (i : Insn) : Bool :=
  let a := (shapeOf (w2Of i)).fmt
  let d := (shapeOf (w3Of i)).fmt
  (opOf i == 0x01 || opOf i == 0x02 || (opOf i == 0x0B && subOf i 0 3 == 0)) &&
  (a != d || a.isMx || d.isMx)

/-! ### What the operations compute -/

/-- The rounding of an instruction for destination element (i, j) (R72, R133). -/
def insnConv (i : Insn) (seed n row col : Nat) : Conv :=
  let d := shapeOf (w3Of i)
  ⟨rndOf (bits i.toNat 96 2), bitOn (bits i.toNat 98 1) 0,
    srU seed (n % 65536 * 65536 + (row * d.cols + col))⟩

/-- The length of an element image in memory: F rounded up to 64 bytes, or to 512 in the leaf store
(R142). -/
def memLen (space : Nat) (s : Shape) : Nat :=
  let q := if space == 2 then 512 else 64
  ceilDiv s.bytes q * q

/-- The length of the scale image, 0 without MX (R142). -/
def scaleLen (space : Nat) (s : Shape) : Nat :=
  let q := if space == 2 then 512 else 64
  if s.fmt.isMx then ceilDiv (s.rows * ceilDiv s.cols 32) q * q else 0

/-- The byte range of a memory operand. -/
def operandLen (space : Nat) (s : Shape) : Nat := memLen space s + scaleLen space s

/-- The offset of the scale of element (i, j) (R142). -/
def scaleOff (space : Nat) (s : Shape) (i j : Nat) : Nat :=
  memLen space s + i * ceilDiv s.cols 32 + j / 32

/-- An element of a memory image: its encoding and scale, or FILL where a unit that touches it arrived
poisoned (R144). -/
def memElem (space : Nat) (s : Shape) (get : Nat → Byte) (psn : Nat → Bool) (fill i j : Nat) : Nat × Nat :=
  let off := scaleOff space s i j
  if (elemBytes s i j).any psn || (s.fmt.isMx && psn off) then (fill % 2 ^ s.w, 127)
  else (elemAt s get i j, (get off).toNat)

/-- The register image a TLD writes, `get` reading its memory operand from offset 0 (R143). -/
def tldImage (i : Insn) (seed n fill : Nat) (get : Nat → Byte) (psn : Nat → Bool) : List Byte :=
  let m := shapeOf (w2Of i)
  let d := shapeOf (w3Of i)
  let space := subOf i 0 2
  let trans := bitOn (subOf i 3 1) 0
  imageOf d (512 * d.foot) (fun r c =>
    let x := if trans then memElem space m get psn fill c r else memElem space m get psn fill r c
    convElem m.fmt d.fmt (m.fmt == d.fmt) (insnConv i seed n r c) x.1 x.2)

/-- The intermediate tile a transposing TLD leaves in the shadow (R143). -/
def tldMid (i : Insn) (seed n fill : Nat) (get : Nat → Byte) (psn : Nat → Bool) : List Byte :=
  let m := shapeOf (w2Of i)
  let d := shapeOf (w3Of i)
  let s := midShape m d
  imageOf s (512 * s.foot) (fun r c =>
    let x := memElem (subOf i 0 2) m get psn fill r c
    convElem m.fmt d.fmt (m.fmt == d.fmt) (insnConv i seed n c r) x.1 x.2)

/-- Element (r, c) of the tile a TST stores, before conversion: transposed with TRANS = 1 (R143). -/
def tstElem (i : Insn) (src : Nat → Byte) (r c : Nat) : Nat :=
  let a := shapeOf (w2Of i)
  if bitOn (subOf i 3 1) 0 then elemAt a src c r else elemAt a src r c

/-- The block of a TST's MX image that holds column `c` of row `r` (R79-R82, R143). -/
def tstBlock (i : Insn) (seed n : Nat) (src : Nat → Byte) (r c : Nat) : Nat × List Nat :=
  let a := shapeOf (w2Of i)
  let d := shapeOf (w3Of i)
  let c0 := c / 32 * 32
  mxBlock d.fmt (a.fmt == .raw8) (insnConv i seed n r c).rnd (insnConv i seed n r c).wrap
    ((upTo (min 32 (d.cols - c0))).map (fun k =>
      let x := tstElem i src r (c0 + k)
      ⟨a.fmt.decode x 127, rawCopy a.w d.w x, (insnConv i seed n r (c0 + k)).u⟩))

/-- The bytes a TST writes: the element image and, for an MX shape, the scale image (R142, R143). -/
def tstImage (i : Insn) (seed n : Nat) (src : Nat → Byte) : List Byte :=
  let a := shapeOf (w2Of i)
  let d := shapeOf (w3Of i)
  let space := subOf i 0 2
  if d.fmt.isMx then
    let nb := ceilDiv d.cols 32
    imageOf d (memLen space d) (fun r c => nth (tstBlock i seed n src r c).2 (c % 32) 0) ++
    (upTo (scaleLen space d)).map (fun o =>
      if o < d.rows * nb then BitVec.ofNat 8 (tstBlock i seed n src (o / nb) (o % nb * 32)).1 else 0)
  else
    imageOf d (memLen space d) (fun r c =>
      convElem a.fmt d.fmt (a.fmt == d.fmt) (insnConv i seed n r c) (tstElem i src r c) 127)

/-- The intermediate tile a transposing TST leaves in the shadow (R143). -/
def tstMid (i : Insn) (src : Nat → Byte) : List Byte :=
  let s := midShape (shapeOf (w3Of i)) (shapeOf (w2Of i))
  imageOf s (512 * s.foot) (fun r c => elemAt (shapeOf (w2Of i)) src c r)

/-- Row `k` of a source image. -/
def imageRow (src : Nat → Byte) (k : Nat) : List Byte := (upTo 512).map (fun l => src (512 * k + l))

/-- TPERM under the row function of its route (R146). -/
def tpermImage (i : Insn) (row : Nat → List Byte → List Byte) (src : Nat → Byte) : List Byte :=
  let d := shapeOf (w3Of i)
  let moved := (upTo d.foot).flatMap (fun k => row k (imageRow src k))
  maskImage d (512 * d.foot) (byteAt moved)

/-- TXP (R146). -/
def txpImage (i : Insn) (src : Nat → Byte) : List Byte :=
  let d := shapeOf (w3Of i)
  imageOf d (512 * d.foot) (fun r c => elemAt (shapeOf (w2Of i)) src c r)

/-- Index (r, c) of an index tile, read as its format defines (R152). -/
def indexAt (b : Shape) (src : Nat → Byte) (r c : Nat) : Int :=
  let x := elemAt b src r c
  match b.fmt with
  | .sint w => signed w x
  | _ => (x : Int)

/-- The index that governs position (r, c) along DIM = 0 (R152, R153). -/
def rowIndex (b : Shape) (src : Nat → Byte) (r c : Nat) : Int :=
  indexAt b src (if b.rows == 1 then 0 else r) c

/-- TGATH (R152). -/
def tgathImage (i : Insn) (fill : Nat) (sa sb : Nat → Byte) : List Byte :=
  let a := shapeOf (w2Of i)
  let b := shapeOf (w1Of i)
  let d := shapeOf (w3Of i)
  imageOf d (512 * d.foot) (fun r c =>
    if subOf i 0 1 == 0 then
      let x := rowIndex b sb r c
      if 0 ≤ x ∧ x < a.cols then elemAt a sa r x.toNat else fill % 2 ^ d.w
    else
      let x := indexAt b sb 0 r
      if 0 ≤ x ∧ x < a.rows then elemAt a sa x.toNat c else fill % 2 ^ d.w)

/-- The last of the numbers below `n` that satisfies `p`. -/
def lastBelow (n : Nat) (p : Nat → Bool) : Option Nat := (upTo n).reverse.find? p

/-- TSCAT; `old` gives the contents of TD under MERGE (R153). -/
def tscatImage (i : Insn) (fill : Nat) (sa sb : Nat → Byte) (old : Nat → Byte) : List Byte :=
  let a := shapeOf (w2Of i)
  let b := shapeOf (w1Of i)
  let d := shapeOf (w3Of i)
  let keep (r c : Nat) : Nat := if subOf i 1 1 == 1 then elemAt d old r c else fill % 2 ^ d.w
  imageOf d (512 * d.foot) (fun r c =>
    if subOf i 0 1 == 0 then
      match lastBelow a.cols (fun j => rowIndex b sb r j == (c : Int)) with
      | some j => elemAt a sa r j
      | none => keep r c
    else
      match lastBelow a.rows (fun k => indexAt b sb 0 k == (r : Int)) with
      | some k => elemAt a sa k c
      | none => keep r c)

/-- Whether a TSCAT drops an element (R153). -/
def tscatOob (i : Insn) (sb : Nat → Byte) : Bool :=
  let a := shapeOf (w2Of i)
  let b := shapeOf (w1Of i)
  let d := shapeOf (w3Of i)
  let out (x : Int) (n : Nat) : Bool := decide (x < 0) || decide ((n : Int) ≤ x)
  if subOf i 0 1 == 0 then
    (upTo a.rows).any (fun r => (upTo a.cols).any (fun j => out (rowIndex b sb r j) d.cols))
  else (upTo a.rows).any (fun k => out (indexAt b sb 0 k) d.rows)

/-- TPLANE (R147). -/
def tplaneImage (i : Insn) (src : Nat → Byte) : List Byte :=
  let a := shapeOf (w2Of i)
  let d := shapeOf (w3Of i)
  imageOf d (512 * d.foot) (fun r c => bits (elemAt a src r c) (subOf i 0 5) d.w)

/-- The espalier function on an image offset with an instruction's fields (R45, R148). -/
def insnSwz (i : Insn) (o q : Nat) : Nat :=
  let esp := subOf i 0 2
  let y := bits i.toNat 39 5
  let m := bits i.toNat 36 3
  let b := bits i.toNat 32 4
  if esp == 0 || m == 0 then o
  else
    let k := o >>> y
    let k := if esp == 2 then k ^^^ (o >>> (y + m)) else k
    let k := if esp == 3 then k ^^^ q else k
    o ^^^ ((k % 2 ^ m) <<< b)

/-- TSWZ: the byte with the larger source offset stands (R148). -/
def tswzImage (i : Insn) (src : Nat → Byte) : List Byte :=
  let d := shapeOf (w3Of i)
  let n := 512 * d.foot
  let q (o : Nat) : Nat := match d.layout with | .plane => o / (d.rows * d.pitch) | _ => 0
  maskImage d n (fun p =>
    match lastBelow n (fun o => insnSwz i o (q o) == p) with
    | some o => src o
    | none => 0)

/-- TFILL in fill form (R149). -/
def tfillImage (i : Insn) (fill : Nat) : List Byte :=
  let d := shapeOf (w3Of i)
  imageOf d (512 * d.foot) (fun _ _ => fill % 2 ^ d.w)

/-- TFILL in pad form (R149). -/
def tpadImage (i : Insn) (fill : Nat) (src : Nat → Byte) : List Byte :=
  let a := shapeOf (w2Of i)
  let d := shapeOf (w3Of i)
  let ro := signed 9 (bits i.toNat 41 9)
  let co := signed 9 (bits i.toNat 32 9)
  imageOf d (512 * d.foot) (fun r c =>
    let x : Int := (r : Int) - ro
    let y : Int := (c : Int) - co
    if 0 ≤ x ∧ x < a.rows ∧ 0 ≤ y ∧ y < a.cols then elemAt a src x.toNat y.toNat else fill % 2 ^ d.w)

/-- TCAT (R150). -/
def tcatImage (i : Insn) (sa sb : Nat → Byte) : List Byte :=
  let a := shapeOf (w2Of i)
  let b := shapeOf (w1Of i)
  let d := shapeOf (w3Of i)
  imageOf d (512 * d.foot) (fun r c =>
    if subOf i 0 1 == 0 then
      (if c < a.cols then elemAt a sa r c else elemAt b sb r (c - a.cols))
    else if r < a.rows then elemAt a sa r c else elemAt b sb (r - a.rows) c)

/-- Copy-form TMOV (R151). -/
def tmovImage (i : Insn) (seed n : Nat) (src : Nat → Byte) : List Byte :=
  let a := shapeOf (w2Of i)
  let d := shapeOf (w3Of i)
  imageOf d (512 * d.foot) (fun r c =>
    convElem a.fmt d.fmt (a.fmt == d.fmt) (insnConv i seed n r c) (elemAt a src r c) 127)

end Sys2Proof.Machine
end

