-- ==== Sys2Proof/Machine/Plan.lean ====
section
/-! DEFINITION. What a built-in program computes: for each destination position the element that
supplies it, and the bits the job writes (07_gather_scatter_overlap, R161-R176, R229-R231, R413). -/

namespace Sys2Proof.Machine

open Sys2Proof

/-- The job descriptor in the 256 bytes of `x` (R225, R228). -/
def parseDesc (x : Nat) : Desc where
  ringFence := bitOn x 10
  domain := bits x 5 4
  phaseEn := bitOn x 4
  mirrorEn := bitOn x 3
  sc := bits x 1 2
  prog := bitOn x 0
  progEntry := bits x 32 20 / 16 * 16
  tag := BitVec.ofNat 64 (bits x 64 64)
  openPhase := bits x 128 24
  closePhase := bits x 160 24
  mirrorBit := bits x 192 23
  pin := bits x 231 2
  pleacher := bits x 224 7
  src := parseTensor (bits x 256 768)
  dst := parseTensor (bits x 1024 768)
  op := bits x 1792 3
  round := bits x 1795 2
  ovf := bits x 1797 1
  padKeep := bitOn x 1798
  axes := (upTo 8).map (fun d => bits x (1800 + 3 * d) 3)
  seed := bits x 1824 32
  sel := BitVec.ofNat 64 (bits x 1856 64)
  pad := (upTo 8).map (fun d => signed 16 (bits x (1920 + 16 * d) 16))

/-- OP with the codes 3-7 taken as 0 (R161). -/
def Desc.opc (d : Desc) : Nat := if d.op ≤ 2 then d.op else 0

/-- PAD_d, 0 at and above the destination's rank (R170). -/
def Desc.padOf (d : Desc) (k : Nat) : Int := if k < d.dst.r then nth d.pad k 0 else 0

/-! ### The index word (R163) -/

/-- IDX_FMT. -/
def Desc.idxFmt (d : Desc) : Nat := bits d.sel.toNat 62 2
/-- IDX_FORM: true for the vector form. -/
def Desc.idxVec (d : Desc) : Bool := bitOn d.sel.toNat 61
/-- IDX_DIM. -/
def Desc.idxDim (d : Desc) : Nat := bits d.sel.toNat 58 3
/-- IDX_SPACE. -/
def Desc.idxSpace (d : Desc) : Nat := bits d.sel.toNat 56 2
/-- IDX_BASE. -/
def Desc.idxBase (d : Desc) : Nat := bits d.sel.toNat 0 52
/-- The size z of an index element. -/
def Desc.idxSize (d : Desc) : Nat := if d.idxFmt < 2 then 2 else 4

/-- The laid-over tensor (R164). -/
def Desc.laidOver (d : Desc) : TDesc := if d.opc == 1 then d.dst else d.src

/-- The pieces of the index for coordinate `c` of the laid-over tensor (R164). -/
def Desc.idxPieces (d : Desc) (c : List Nat) : List Piece :=
  let k := if d.idxVec then nth c d.idxDim 0 else d.laidOver.linear c
  (upTo d.idxSize).map (fun i =>
    let a := d.idxBase + d.idxSize * k + i
    ⟨(a : Int), reduceAt d.idxSpace a, 0, 8, 8 * i⟩)

/-- The integer of an index encoding (R166). -/
def Desc.idxValue (d : Desc) (x : Nat) : Int :=
  match d.idxFmt with
  | 0 => (x : Int)
  | 1 => signed 16 x
  | 2 => (x : Int)
  | _ => signed 32 x

/-- The index box (R165). -/
def Desc.idxBox (d : Desc) : Option (Int × Int) :=
  if d.opc == 0 || d.laidOver.empty then none
  else
    let n := if d.idxVec then d.laidOver.ext d.idxDim else d.laidOver.count
    some ((d.idxBase : Int), (d.idxBase : Int) + ((d.idxSize * n : Nat) : Int))

/-! ### Where each destination element comes from -/

/-- What supplies a destination position: a source element, the source FILL, or the destination FILL of
a padding or unnamed position. -/
inductive Supply
  | elem (c : List Nat)
  | srcFill
  | dstFill
  deriving DecidableEq, Repr, Inhabited

/-- A destination position the job writes and what supplies it. -/
structure Item where
  dst : List Nat
  sup : Supply
  deriving DecidableEq, Repr, Inhabited

/-- The shifted coordinate (R169). -/
def Desc.shifted (d : Desc) (c : List Nat) : List Int :=
  (upTo 8).map (fun k => ((nth c k 0 : Nat) : Int) - d.padOf k)

/-- AXES_d. -/
def Desc.axis (d : Desc) (k : Nat) : Nat := nth d.axes k 0

/-- A padding position (R169). -/
def Desc.padding (d : Desc) (c : List Nat) : Bool :=
  let cs := d.shifted c
  (upTo d.dst.r).any (fun k =>
    let a := if d.opc == 0 then d.axis k else k
    let x := nth cs k 0
    !(d.opc == 1 && k == d.idxDim) && (decide (x < 0) || decide ((d.src.ext a : Int) ≤ x)))

/-- Whether a coordinate of integers is in bounds (R50). -/
def TDesc.inBounds (t : TDesc) (c : List Int) : Bool :=
  (upTo 8).all (fun k => decide (0 ≤ nth c k 0) && decide (nth c k 0 < (t.ext k : Int)))

/-- The source element at `c`, or the source FILL where `c` is out of bounds (R51). -/
def Desc.supplyAt (d : Desc) (c : List Int) : Supply :=
  if d.src.inBounds c then .elem (c.map Int.toNat) else .srcFill

/-- The highest destination dimension below the rank whose axis is `a` (R229). -/
def Desc.topOf (d : Desc) (a : Nat) : Option Nat :=
  (upTo d.dst.r).reverse.find? (fun k => d.axis k == a)

/-- The linear index of `c` over the destination's dimensions other than `d0` (R413). -/
def Desc.lambda (d : Desc) (d0 : Nat) (c : List Nat) : Nat :=
  let ks := (upTo d.dst.r).filter (fun k => k != d0)
  linearOf (ks.map d.dst.ext) (ks.map (fun k => nth c k 0))

/-- The source units of group `r` under the job's selector: the generator's, or those of the route the
job was served (R229, R230). -/
def Desc.unitsAt (d : Desc) (route : Option (List Nat)) (r : Nat) : List Nat :=
  match route with
  | some src => src
  | none => genUnits d.sel r

/-- The source coordinate of a reorder (R229, R413). -/
def Desc.reorder (d : Desc) (route : Option (List Nat)) (c : List Nat) : List Int :=
  let cs := d.shifted c
  let base := (upTo 8).map (fun a =>
    match d.topOf a with
    | some k => nth cs k 0
    | none => 0)
  if selClass d.sel == 0 then base
  else
    let a0 := d.axis 0
    let d0 := (d.topOf a0).getD 0
    let x := (nth cs d0 0).toNat
    let u := match route with | some src => src.length | none => 2 ^ unitBits (selGrain d.sel)
    let r := (x / u + ceilDiv (d.src.ext a0) u * d.lambda d0 c) % 2 ^ 32
    base.set a0 ((x - x % u + nth (d.unitsAt route r) (x % u) 0 : Nat) : Int)

/-- What supplies a destination position of a reorder or gather; `idx` answers none for a poisoned index
(R168, R169, R173, R229). A source without elements gives its FILL everywhere (R48, log 22). -/
def Desc.supply (d : Desc) (route : Option (List Nat)) (idx : List Nat → Option Int) (c : List Nat) : Supply :=
  if d.src.empty then .srcFill
  else if d.padding c then .dstFill
  else if d.opc == 0 then d.supplyAt (d.reorder route c)
  else
    match idx c with
    | none => .srcFill
    | some x =>
      if 0 ≤ x ∧ x < (d.src.ext d.idxDim : Int) then d.supplyAt ((d.shifted c).set d.idxDim x)
      else .srcFill

/-- The destination coordinate of a scattered source element, none where it is dropped as out of bounds
or out of range (R174). -/
def Desc.target (d : Desc) (s : List Nat) (x : Int) : Option (List Nat) :=
  let c := ((upTo 8).map (fun k => ((nth s k 0 : Nat) : Int) + d.padOf k)).set d.idxDim x
  if 0 ≤ x ∧ x < (d.dst.ext d.idxDim : Int) ∧ d.dst.inBounds c then some (c.map Int.toNat) else none

/-- The scattered elements in index order (R174); a poisoned index drops its element (R168). -/
def Desc.scattered (d : Desc) (idx : List Nat → Option Int) : List Item :=
  (upTo d.src.count).filterMap (fun i =>
    let s := d.src.coord i
    match idx s with
    | none => none
    | some x => (d.target s x).map (fun c => ⟨c, .elem s⟩))

/-- Whether a scatter drops an element that OOB_SEEN reports (R51, R174). -/
def Desc.scatterOob (d : Desc) (idx : List Nat → Option Int) : Bool :=
  (upTo d.src.count).any (fun i =>
    match idx (d.src.coord i) with
    | none => false
    | some x => (d.target (d.src.coord i) x).isNone)

/-- Every destination position in coordinate order. -/
def TDesc.coords (t : TDesc) : List (List Nat) := (upTo t.count).map t.coord

/-- The positions a job gives a value, in the order in which they are written (R44, R174, R175).
Padding and unnamed positions are left out under PAD_KEEP (R171). A scatter of a source without elements
gives its FILL to every position (R48, log 22). -/
def Desc.items (d : Desc) (route : Option (List Nat)) (idx : List Nat → Option Int) : List Item :=
  let all : List Item :=
    if d.opc == 2 && d.src.empty then d.dst.coords.map (fun c => ⟨c, .srcFill⟩)
    else if d.opc == 2 then
      let sc := d.scattered idx
      ((d.dst.coords.filter (fun c => !sc.any (fun i => i.dst == c))).map (fun c => ⟨c, .dstFill⟩)) ++ sc
    else d.dst.coords.map (fun c => ⟨c, d.supply route idx c⟩)
  if d.padKeep then all.filter (fun i => i.sup != .dstFill) else all

/-- The coordinates whose index a job reads (R169, R174). -/
def Desc.indexed (d : Desc) : List (List Nat) :=
  match d.opc with
  | 1 => if d.src.empty then [] else d.dst.coords.filter (fun c => !d.padding c)
  | 2 => d.src.coords
  | _ => []

/-- The source coordinates a job reads: of a scatter every element once, dropped ones too (R162, R174). -/
def Desc.readCoords (d : Desc) (is : List Item) : List (List Nat) :=
  if d.opc == 2 then d.src.coords
  else is.filterMap (fun i => match i.sup with | .elem c => some c | _ => none)

/-- The source pieces a job reads. -/
def itemReads (d : Desc) (is : List Item) : List Piece := (d.readCoords is).flatMap d.src.reads

/-! ### What is written -/

/-- The bits a job writes: (address, mask, value), addresses strictly rising. -/
abbrev Patch := List (Nat × Nat × Nat)

/-- Later bits replace earlier ones (R44). -/
def Patch.put : Patch → Nat → Nat → Nat → Patch
  | [], a, m, v => [(a, m, v)]
  | (k, m0, v0) :: r, a, m, v =>
    if a < k then (a, m, v) :: (k, m0, v0) :: r
    else if a = k then (k, m0 ||| m, (v0 - (v0 &&& m)) + v) :: r
    else (k, m0, v0) :: Patch.put r a m v

/-- The bits of an encoding at its pieces. Where two bits of one element fall on one destination bit (planes
that overlap, a fold inside a wide element), the higher plane or byte stands (log 64). -/
def patchPieces (p : Patch) (ps : List Piece) (x : Nat) : Patch :=
  ps.foldl (fun p q => p.put q.addr ((2 ^ q.n - 1) <<< q.sh) ((bits x q.pos q.n) <<< q.sh)) p

/-- A source element's encoding and scale, the FILL at scale 2^0 where a unit that holds a bit of it or
its scale arrived poisoned (R53). -/
def srcElem (t : TDesc) (get : Piece → Byte) (psn : Piece → Bool) (c : List Nat) : Nat × Nat :=
  if (t.reads c).any psn then (t.fillEnc, 127)
  else (readPieces get (t.pieces c),
    if t.fmt.isMx then (get (t.scalePiece c)).toNat else 127)

/-- The rounding of destination element `c` (R65, R72). -/
def Desc.conv (d : Desc) (c : List Nat) : Conv :=
  ⟨rndOf d.round, d.ovf == 1, srU d.seed (d.dst.linear c % 2 ^ 32)⟩

/-- The encoding and scale an item takes before conversion. -/
def Desc.taken (d : Desc) (get : Piece → Byte) (psn : Piece → Bool) (i : Item) : Nat × Nat :=
  match i.sup with
  | .elem c => srcElem d.src get psn c
  | _ => (d.src.fillEnc, 127)

/-- The encoding written for an item of a destination without MX (R66-R68). -/
def Desc.encoded (d : Desc) (get : Piece → Byte) (psn : Piece → Bool) (i : Item) : Nat :=
  match i.sup with
  | .dstFill => d.dst.fillEnc
  | _ =>
    let x := d.taken get psn i
    convElem d.src.fmt d.dst.fmt (d.src.fmt == d.dst.fmt) (d.conv i.dst) x.1 x.2

/-- The value an item brings to its MX block: the destination FILL at scale 2^0 for a position without a
source (R81), its encoding kept for a RAW8 source (R76). -/
def Desc.mxIn (d : Desc) (get : Piece → Byte) (psn : Piece → Bool) (c : List Nat) (i : Option Item) : MxIn :=
  let u := (d.conv c).u
  let fill : MxIn := ⟨d.dst.fmt.decode d.dst.fillEnc 127, d.dst.fillEnc, u⟩
  match i with
  | none => fill
  | some i =>
    match i.sup with
    | .dstFill => fill
    | _ =>
      let x := d.taken get psn i
      ⟨d.src.fmt.decode x.1 x.2, rawCopy d.src.w d.dst.w x.1, u⟩

/-- A block into a list by rising coordinate, each once. -/
def Desc.addBlock (d : Desc) : List (List Nat) → List Nat → List (List Nat)
  | [], b => [b]
  | x :: r, b =>
    if d.dst.linear b < d.dst.linear x then b :: x :: r
    else if d.dst.linear b == d.dst.linear x then x :: r
    else x :: d.addBlock r b

/-- The blocks in which the job writes, each by the coordinate of its first element, in coordinate order
(R81). -/
def Desc.blocksOf (d : Desc) (is : List Item) : List (List Nat) :=
  (is.map (fun i => i.dst.set 0 (nth i.dst 0 0 / 32 * 32))).foldl d.addBlock []

/-- The shared scale of one MX block, and its positions with their encodings (R76, R79-R81). -/
def Desc.blockOut (d : Desc) (get : Piece → Byte) (psn : Piece → Bool) (is : List Item) (b : List Nat) :
    Nat × List (List Nat × Nat) :=
  let b0 := nth b 0 0
  let cs := (upTo (min 32 (d.dst.ext 0 - b0))).map (fun k => b.set 0 (b0 + k))
  let r := mxBlock d.dst.fmt (d.src.fmt == .raw8) (rndOf d.round) (d.ovf == 1)
    (cs.map (fun c => d.mxIn get psn c (is.reverse.find? (fun i => i.dst == c))))
  (r.1, cs.zip r.2)

/-- The positions of an MX destination in the order in which they are written: in coordinate order (R44); of a
scatter the unnamed ones first and the named ones in index order (R174, R175). -/
def Desc.mxOrder (d : Desc) (is : List Item) (all : List (List Nat × Nat)) : List (List Nat × Nat) :=
  if d.opc == 2 then
    let named := is.filterMap (fun i => match i.sup with | .elem _ => some i.dst | _ => none)
    all.filter (fun x => !named.contains x.1) ++
      named.filterMap (fun c => all.find? (fun x => x.1 == c))
  else all

/-- Every bit the job writes. The scales of an MX destination are written after its elements, block by block
(log 65). -/
def Desc.patch (d : Desc) (get : Piece → Byte) (psn : Piece → Bool) (is : List Item) : Patch :=
  if d.dst.fmt.isMx then
    let bs := (d.blocksOf is).map (fun b => (b, d.blockOut get psn is b))
    let p := (d.mxOrder is (bs.flatMap (fun x => x.2.2))).foldl (fun p x => patchPieces p (d.dst.pieces x.1) x.2) []
    bs.foldl (fun p x => patchPieces p [d.dst.scalePiece x.1] x.2.1) p
  else is.foldl (fun p i => patchPieces p (d.dst.pieces i.dst) (d.encoded get psn i)) []

/-- The pieces the job writes, whatever their values: those of R43's merge test. -/
def Desc.written (d : Desc) (is : List Item) : Patch :=
  d.patch (fun _ => 0) (fun _ => false) is

/-- The bytes that hold bits the job writes and bits it does not (R43). -/
def Patch.partialBytes (p : Patch) : List Nat := (p.filter (fun x => x.2.1 != 255)).map (fun x => x.1)

/-- A byte after the patch. -/
def patchByte (m v : Nat) (old : Byte) : Byte :=
  BitVec.ofNat 8 ((old.toNat - (old.toNat &&& m)) + v)

/-- Whether a source element the job reads lies in a poisoned unit (R53). -/
def Desc.readsPoison (d : Desc) (psn : Piece → Bool) (is : List Item) : Bool :=
  (d.readCoords is).any (fun c => (d.src.reads c).any psn)

/-- MISALIGNED of a built-in job (R55, R167). -/
def Desc.misaligned (d : Desc) : Bool :=
  !d.src.aligned || !d.dst.aligned || (d.opc != 0 && d.idxBase % 64 != 0)

end Sys2Proof.Machine
end

