-- ==== Sys2Proof/Machine/Ops.lean ====
section
/-! DEFINITION. Named operations over the state that every family shares: the configuration's units,
updates of one unit, errors and counters, power and service of a hedgerow, period positions, tile
registers, outstanding transactions. -/

namespace Sys2Proof.Machine

open Sys2Proof

/-! ### Configuration (R7, R9, R11, R360) -/

end Sys2Proof.Machine

namespace Sys2Proof

/-- Hedgerow count H. -/
def Cfg.hedgerows (c : Cfg) : Nat :=
  match c.kind with | .h2 => 2 | .h4 => 4 | .h8 => 8 | .h12 => 12

/-- KPE-H8 and KPE-H12 carry every optional unit (R9). -/
def Cfg.large (c : Cfg) : Bool :=
  match c.kind with | .h2 | .h4 => false | .h8 | .h12 => true

/-- Phase dispatch present. -/
def Cfg.phase (c : Cfg) : Bool := c.large || c.optPhase
/-- Remote window port present. -/
def Cfg.iwp (c : Cfg) : Bool := c.large || c.optIwp
/-- Privet bank present. -/
def Cfg.privet (c : Cfg) : Bool := c.large || c.optPrivet
/-- Extended route cache present. -/
def Cfg.rcExt (c : Cfg) : Bool := c.large || c.optRcExt
/-- Full ring context present. -/
def Cfg.ringFull (c : Cfg) : Bool := c.large || c.optRingFull

/-- Rings served: 65 536, or 4096 without the full ring context. -/
def Cfg.rings (c : Cfg) : Nat := if c.ringFull then 65536 else 4096

end Sys2Proof

namespace Sys2Proof.Machine

open Sys2Proof

/-- Phase dispatch in effect: present and not in quickset mode (R11, R360). -/
def Env.phaseOn (v : Env) : Bool := v.cfg.phase && !v.ao.qs

/-- A hedgerow of the configuration. -/
def Env.isHr (v : Env) (h : Nat) : Bool := decide (h < v.cfg.hedgerows)

/-- A pleacher of the configuration. -/
def Env.isPl (v : Env) (g : Nat) : Bool := decide (g < 8 * v.cfg.hedgerows)

/-! ### Updates -/

/-- What every command answers. -/
abbrev Out := Host.Outcome State Fault Refusal

/-- The state with another fc-domain state. -/
def State.onEng (s : State) (e : Eng) : State := { s with eng := e }

/-- The state with another environment. -/
def State.onEnv (s : State) (v : Env) : State := { s with env := v }

/-- One hedgerow changed. -/
def Eng.onHr (e : Eng) (h : Nat) (f : Hedgerow → Hedgerow) : Eng := { e with hr := e.hr.upd h f }

/-- One pleacher changed. -/
def Eng.onPl (e : Eng) (g : Nat) (f : Pleacher → Pleacher) : Eng := { e with pl := e.pl.upd g f }

/-- One period domain changed. -/
def Eng.onDom (e : Eng) (d : Nat) (f : Domain → Domain) : Eng := { e with dom := e.dom.upd d f }

/-- The Hedger changed. -/
def Eng.onHed (e : Eng) (f : Hedger → Hedger) : Eng := { e with hed := f e.hed }

/-- The block counters changed. -/
def Eng.onCnt (e : Eng) (f : BlkCnt → BlkCnt) : Eng := { e with cnt := f e.cnt }

/-- One hedgerow's counters changed. -/
def Eng.onHrCnt (e : Eng) (h : Nat) (f : HrCnt → HrCnt) : Eng :=
  e.onHr h (fun x => { x with cnt := f x.cnt })

/-- The memories changed. -/
def Eng.onMem (e : Eng) (f : Mems → Mems) : Eng := { e with mem := f e.mem }

/-- Whether a job holds slot `k` = (pleacher, slot). -/
def Job.isAt (j : Job) (k : Nat × Nat) : Bool := j.g == k.1 && j.slot == k.2

/-- The job in a slot. -/
def Eng.jobAt (e : Eng) (k : Nat × Nat) : Option Job := e.jobs.find? (fun j => j.isAt k)

/-- The job in a slot changed. -/
def Eng.onJob (e : Eng) (k : Nat × Nat) (f : Job → Job) : Eng :=
  { e with jobs := e.jobs.map (fun j => if j.isAt k then f j else j) }

/-- The slot of the job a pleacher has selected. -/
def Eng.curKey (e : Eng) (g : Nat) : Nat × Nat := (g, (e.pl.look g).cur)

/-- The job a pleacher has selected, if it is not idle. -/
def Eng.curJob (e : Eng) (g : Nat) : Option Job :=
  match (e.pl.look g).phase with
  | .idle => none
  | _ => e.jobAt (e.curKey g)

/-- The slot key of a job. -/
def Job.key (j : Job) : Nat × Nat := (j.g, j.slot)

/-- Bit `i` of KZ_ERR_STATUS set (R396). -/
def Eng.err (e : Eng) (i : Nat) : Eng := { e with errStatus := e.errStatus ||| BitVec.ofNat 32 (2 ^ i) }

/-- A hedgerow's bit of KZ_ERR_HR set (R398). -/
def Eng.errOf (e : Eng) (h : Nat) : Eng := { e with errHr := e.errHr ||| BitVec.ofNat 32 (2 ^ h) }

/-! ### Power and service (R23, R348, R367) -/

/-- kz_pwr_req of domain k of hedgerow h. -/
def Env.reqBit (v : Env) (h k : Nat) : Bool := (v.pins.pwrReq.look h).toNat.testBit k

/-- kz_pwr_ack of domain k of hedgerow h. -/
def Env.ackBit (v : Env) (h k : Nat) : Bool := (v.pins.pwrAck.look h).toNat.testBit k

/-- A domain that is clamped or off (R368). -/
def Env.isOff (v : Env) (h k : Nat) : Bool := v.reqBit h k || v.ackBit h k

/-- The data-path ready signal (R348). -/
def ready (v : Env) (e : Eng) (h : Nat) : Bool :=
  !(v.ackBit h 0 && !v.reqBit h 0) && !(e.hr.look h).parity && !(e.hr.look h).logicOff && !v.reqBit h 0

/-- A hedgerow in service (R23). -/
def inService (v : Env) (e : Eng) (h : Nat) : Bool :=
  v.isHr h && (e.hr.look h).mgmtIn && ready v e h

/-- The leaf-store group domain of a pleacher. -/
def groupOf (g : Nat) : Nat := 1 + g % 8 / 4

/-- A pleacher in service: its hedgerow is, its leaf-store group is powered, and it belongs to quickset
mode's units (R226, R360, R367). -/
def plInService (v : Env) (e : Eng) (g : Nat) : Bool :=
  inService v e (g / 8) && !v.isOff (g / 8) (groupOf g) && (!v.ao.qs || decide (g < 4))

/-- A hedgerow counts as stopped (R364). -/
def hrIsStopped (e : Eng) (h : Nat) : Bool := (e.hr.look h).stopped || e.phase == .stopped

/-- A fenced hedgerow (R345). -/
def hrIsFenced (e : Eng) (h : Nat) : Bool := (e.hr.look h).fenceCause != 0

/-! ### Period domains (R270, R274, R275) -/

/-- A domain's position. -/
def Domain.pos (d : Domain) : Nat := d.pnum.toNat * 2 ^ 24 + d.phase.toNat

/-- Whether position `p` has reached `t`, by the sign of the difference modulo 2^56 (R274). -/
def reached (p t : Nat) : Bool := decide ((p + 2 ^ 56 - t % 2 ^ 56) % 2 ^ 56 < 2 ^ 55)

/-- A window that spans a domain wrap (R274). -/
def Desc.wrapped (d : Desc) : Bool := decide (d.closePhase ≤ d.openPhase)

/-- The open position of instance `p` (R274). -/
def Desc.openPos (d : Desc) (p : W32) : Nat := p.toNat * 2 ^ 24 + d.openPhase

/-- The close position of instance `p` (R274). -/
def Desc.closePos (d : Desc) (p : W32) : Nat :=
  (if d.wrapped then p.toNat + 1 else p.toNat) * 2 ^ 24 + d.closePhase

/-- Whether PHASE_EN takes effect now (R233). -/
def bindsNow (v : Env) (e : Eng) (d : Desc) : Bool :=
  d.phaseEn && v.phaseOn && (e.dom.look d.domain).st != .disabled

/-- The instance of a window and whether it is open when its job becomes the head (R275). -/
def fixWindow (m : Domain) (d : Desc) : Win :=
  let φ := m.phase.toNat
  if m.st == .armed then ⟨0, false, false⟩
  else if !d.wrapped then
    (if φ < d.openPhase then ⟨m.pnum, false, false⟩
     else if φ < d.closePhase then ⟨m.pnum, true, false⟩
     else ⟨m.pnum + 1, false, false⟩)
  else if d.openPhase ≤ φ then ⟨m.pnum, true, false⟩
  else if φ < d.closePhase then (if m.pnum = 0 then ⟨0, false, false⟩ else ⟨m.pnum - 1, true, false⟩)
  else ⟨m.pnum, false, false⟩

/-! ### Privet access (R200, R376) -/

/-- The lifecycle state admits privet access. -/
def lcsPermits (x : Option (BitVec 4)) : Bool :=
  match x with
  | some c => c == 5 || c == 6
  | none => false

/-- The lifecycle states in which scan is possible (R376, R381): MANUFACTURE, DEVELOPMENT, RMA. -/
def lcsScans (x : Option (BitVec 4)) : Bool :=
  match x with
  | some c => c == 3 || c == 5 || c == 9
  | none => false

/-- The condition of R200 for a job's ring marking; a test mode in effect holds the privet flops
(R381). -/
def pvAdmits (v : Env) (e : Eng) (secure : Bool) : Bool :=
  v.cfg.privet && !v.ao.qs && secure && lcsPermits v.sec.lcs && !v.sec.tamper && e.wipe == .none &&
  !(v.pins.testMode && lcsScans v.sec.lcs)

/-! ### Tile registers (R108, R115) -/

/-- The key of byte `o` of register `t`; 8 is the shadow register. -/
def tileKey (t o : Nat) : Nat := 8192 * t + o

/-- Byte `o` of a register's image as an instruction reads it (R115). -/
def Pleacher.tileByte (p : Pleacher) (t o : Nat) : Byte :=
  let h := p.ctx.hdr.look t
  if h.inuse && decide (o / 512 < h.foot) then Mem.byte p.tile (tileKey t o) else 0

/-- The contents of two registers exchanged (R123). -/
def tileSwap (m : Mem) (t u : Nat) : Mem :=
  let a := Mem.bytes m (tileKey t 0) 8192
  let b := Mem.bytes m (tileKey u 0) 8192
  Mem.putBytes (Mem.putBytes m (tileKey t 0) b) (tileKey u 0) a

/-- Every header cleared (R114, R116). -/
def noHeaders : Tab Header 8 := Vector.replicate 8 ⟨0, false, 0⟩

/-! ### Outstanding transactions -/

/-- Whether a write of a job is outstanding; a timed-out one counts as taken place (R316). -/
def writesOut (e : Eng) (k : Nat × Nat) : Bool :=
  (e.hr.look (k.1 / 8)).xacts.any (fun x => x.write && x.owner == k && !x.timedOut)

/-- The lowest tag from `lo` on below `hi` that no transaction uses (R304, log 15). -/
def freeTag (used : List Nat) (lo hi : Nat) : Option Nat :=
  ((upTo (hi - lo)).map (fun i => lo + i)).find? (fun t => !used.contains t)

/-- The timeout value of a class (R315). -/
def tmoOf (v : Env) (sc : Nat) : Nat := bits v.regs.fabTmo.toNat (8 * (3 - sc)) 8

/-- Outstanding-read cap of a class on a port (R314). -/
def readCap (v : Env) (h sc : Nat) : Nat :=
  let x := bits (v.regs.hr.look h).scCfg.toNat (8 * (3 - sc)) 8
  if x == 0 || x > 128 then 512 else 4 * x

/-- SC0 is held during a change of fc (R321): from the request on, and while kz_mem_train is in effect only from the
acknowledgement on (log 80). -/
def Iface.holdsSc0 (i : Iface) : Bool := i.clkReq && (!i.train || i.clkAck)

/-- Whether a class may issue (R318, R319, R321). -/
def Iface.mayIssue (i : Iface) (sc : Nat) : Bool :=
  !i.quiesce && !(i.train && decide (2 ≤ sc)) && !(sc == 0 && i.holdsSc0)

/-- SC0 transactions outstanding over every path: the hedgerow ports and the local write path. One that has
timed out is outstanding until its response comes (R304, R316, R321). -/
def sc0Out (e : Eng) : Nat :=
  ((upTo 12).map (fun h => ((e.hr.look h).xacts.filter (fun x => x.sc == 0)).length)).foldl (· + ·) 0 +
  (e.iwp.out.filter (fun x => x.sc == 0)).length

/-- No host-memory transaction is outstanding (R318). -/
def memIdle (e : Eng) : Bool :=
  (upTo 12).all (fun h => (e.hr.look h).xacts.isEmpty) && e.hed.cfpOut.isEmpty && e.iwp.out.isEmpty

/-- The fc-domain part serves commands of operation: the block runs or is stopped after a start. -/
def Eng.up (e : Eng) : Bool := e.phase == .stopped || e.phase == .running

/-- kz_rst_n is low, or no start has begun. -/
def Eng.inReset (e : Eng) : Bool := e.phase == .reset

/-- A free counter advanced by `n` draws (log 4). -/
def Eng.draw (e : Eng) (n : Nat) : Eng := { e with free := e.free + n }

/-- The routes of every pleacher of a hedgerow invalidated (R105). -/
def Eng.dropRoutes (e : Eng) (h : Nat) : Eng :=
  (upTo 8).foldl (fun e p => e.onPl (8 * h + p) (fun x => { x with routes := [] })) e

/-- The tile registers, shadow and headers of a pleacher cleared, and its latches with them (R116, R120, R328). -/
def Eng.zeroTiles (e : Eng) (g : Nat) : Eng :=
  e.onPl g (fun p => { p with tile := [], latches := Latches.reset, ctx := { p.ctx with hdr := noHeaders } })

end Sys2Proof.Machine
end

