-- ==== Sys2Proof/Machine/Spots.lean ====
section
/-! DEFINITION. Where a job finds the bytes it reads, what an instruction in flight delivers to its register, and
which instructions run to their ends when their job yields or ends (R112, R119, R122, R125, R130, R144, R180). -/

namespace Sys2Proof.Machine

open Sys2Proof

/-! ### The bytes a job reads (R180) -/

/-- The staged box that holds an unreduced address (R180). -/
def Job.stagedAt (j : Job) (i : Inst) (un : Int) : Option StagedBox :=
  j.boxes.find? (fun b => b.inst == i && decide (b.lo ≤ un) && decide (un < b.hi))

/-- Offset of an unreduced address in its staging region (R181). -/
def StagedBox.regionOff (b : StagedBox) (un : Int) : Nat :=
  ((b.off : Int) + un - b.lo / 64 * 64).toNat % (65536 * b.size)

/-- Address of an unreduced address in its staging region (R181, R183). -/
def StagedBox.at (b : StagedBox) (un : Int) : Nat :=
  if b.privet then (b.base + b.regionOff un) % 2 ^ 19 else (b.base + b.regionOff un) % 2 ^ 52

/-- Where a read of a job finds its byte: the staged copy or the byte's own place (R180). -/
def Job.locate (j : Job) (i : Inst) (un : Int) (a : Nat) : Inst × Nat :=
  match j.stagedAt i un with
  | some b => (if b.privet then .privet else .host, b.at un)
  | none => (i, a)

/-- The unreduced address by which an address of a planner program or a map is compared with the staged boxes:
the lowest one at or above the box's bound that reduces to it (log 37). -/
def Job.unOf (j : Job) (i : Inst) (a : Nat) : Int :=
  let size : Int := match i with | .host => 2 ^ 52 | .bank _ => 2 ^ 20 | _ => 2 ^ 19
  let lift (b : StagedBox) : Int := b.lo + ((a : Int) - b.lo) % size
  match j.boxes.find? (fun b => b.inst == i && decide (lift b < b.hi)) with
  | some b => lift b
  | none => (a : Int)

/-- A byte a job reads: its memory, its unreduced address and its place there. -/
abbrev Spot := Inst × Int × Nat

/-- Where a read finds its byte (R180). -/
def Job.placeOf (j : Job) (s : Spot) : Inst × Nat := j.locate s.1 s.2.1 s.2.2

/-- The unit of a staging region that serves a read: its address on the host, or 2^52 and its privet offset. -/
def Job.regionUnit (j : Job) (s : Spot) : Option Nat :=
  (j.stagedAt s.1 s.2.1).map (fun b => (if b.privet then 2 ^ 52 else 0) + b.at s.2.1 / 64 * 64)

/-- The copy of the unit stands for one that a remote block answered (R290). -/
def Job.remoteCopy (j : Job) (s : Spot) : Bool :=
  match j.regionUnit s with
  | some u => j.copyRemote.contains u
  | none => false

/-- The byte of a piece of a tensor in `space`. -/
def spotOf (j : Job) (space : Nat) (p : Piece) : Spot := (instOf j.g space, p.un, p.addr)

/-- The key of an on-block byte among those a job was granted. -/
def placeKey (i : Inst) (a : Nat) : Nat :=
  match i with
  | .host => 0
  | .bank _ => a % 2 ^ 20
  | .leaf _ => 2 ^ 20 + a % 2 ^ 19
  | .privet => 2 ^ 21 + a % 2 ^ 19

/-! ### Bytes kept under a key -/

/-- Byte `o` of a run whose bytes the job keeps under `key`: those from the host at their address, the others
behind them at their offset. -/
def spotKept (j : Job) (key o : Nat) (s : Spot) : Byte :=
  match j.placeOf s with
  | (.host, a) => Mem.byte j.rd (key + a)
  | _ => Mem.byte j.rd (key + 2 ^ 52 + o)

/-- Whether the unit of a byte kept under `key` is poisoned, or remote (R53, R290). -/
def spotLost (j : Job) (key : Nat) (s : Spot) : Bool :=
  j.remoteCopy s ||
  (match j.placeOf s with
   | (.host, a) => j.rdPsn.contains (key + a / 64 * 64) || j.remote.contains (key + a / 64 * 64)
   | _ => false)

/-- The data kept under `key` given up. -/
def Job.giveUp (j : Job) (key : Nat) : Job :=
  { j with
    rd := Mem.clear j.rd key (2 ^ 53)
    rdPsn := j.rdPsn.filter (fun x => x / 2 ^ 53 != key / 2 ^ 53)
    remote := j.remote.filter (fun x => x / 2 ^ 53 != key / 2 ^ 53) }

/-- Whether data that a job keeps under `key` are still to come. -/
def keyPending (e : Eng) (j : Job) (key : Nat) : Bool :=
  j.xq.any (fun r => match r.purpose with | .data k => k / 2 ^ 53 == key / 2 ^ 53 | _ => false) ||
  (e.hr.look (j.g / 8)).xacts.any (fun x =>
    x.owner == j.key && x.live && (match x.purpose with | .data k => k / 2 ^ 53 == key / 2 ^ 53 | _ => false))

/-- Reads of the bytes kept under `key` that the mover has not issued. -/
def Job.unissued (j : Job) (key : Nat) : Bool :=
  j.xq.any (fun r => match r.purpose with | .data k => k / 2 ^ 53 == key / 2 ^ 53 | _ => false)

/-- Byte `o` of a memory operand. -/
def operandSpot (j : Job) (g space a o : Nat) : Spot :=
  let x := reduceAt space (a + o)
  (instOf g space, j.unOf (instOf g space) x, x)

/-- Byte `o` of an operand whose bytes the job keeps under `key`. -/
def operandByte (j : Job) (g space a key o : Nat) : Byte := spotKept j key o (operandSpot j g space a o)

/-- Whether the unit of byte `o` of an operand is poisoned, or remote (R144, R290). -/
def operandLost (j : Job) (g space a key o : Nat) : Bool := spotLost j key (operandSpot j g space a o)

/-! ### Latches and register images (R112, R114, R119, R120) -/

/-- A latch holds row `k` of register `t`. -/
def Latch.holds (l : Option Latch) (t k : Nat) : Bool :=
  match l with
  | some l => l.reg == t && l.row == k
  | none => false

/-- A read: a hit leaves its latch the one used more recently, a miss replaces the one used less recently. -/
def Latches.read (x : Latches) (t k : Nat) (bytes : List Byte) : Latches :=
  if Latch.holds x.recent t k then x
  else if Latch.holds x.older t k then ⟨x.older, x.recent⟩
  else ⟨some ⟨t, k, bytes⟩, x.recent⟩

/-- Register `t` is written, replaced by a commit, or gets another header: its entries are invalidated. -/
def Latches.drop (x : Latches) (t : Nat) : Latches :=
  let keep (l : Option Latch) : Option Latch := l.filter (fun l => l.reg != t)
  ⟨keep x.recent, keep x.older⟩

/-- The header after a write of a register (R114). -/
def headerOf (shape : W32) : Header := ⟨(shapeOf shape).foot, true, shape &&& 0xFFFFFF80#32⟩

/-- A register image takes effect: written in place through the shadow, or directly with the intermediate
tile left in the shadow (R112, R114, R123, R143). The register's latches are invalidated (R120), and its header
stands in the checkpoints of what is in flight: a later abandonment undoes no retired write (R125, R159, log 71). -/
def deliverReg (p : Pleacher) (f : Flight) (t : Nat) (shape : W32) (img mid : List Byte) : Pleacher :=
  let tile :=
    if f.shadow && mid.isEmpty then tileSwap (Mem.putBytes p.tile (tileKey 8 0) img) t 8
    else Mem.putBytes (Mem.putBytes p.tile (tileKey 8 0) mid) (tileKey t 0) img
  { p with
    tile := tile
    latches := p.latches.drop t
    ctx := { p.ctx with hdr := p.ctx.hdr.put t (headerOf shape) }
    flights := p.flights.map (fun f => { f with ckpt := { f.ckpt with hdr := f.ckpt.hdr.put t (headerOf shape) } }) }

/-! ### Instructions in flight (R122, R125, R130) -/

/-- A load that has met poisoned data (R53, R144). -/
def Flight.lost (f : Flight) (j : Job) : Bool :=
  match f.deliver with
  | .load _ _ key => j.rdPsn.any (fun x => x / 2 ^ 53 == key / 2 ^ 53)
  | _ => false

/-- What an instruction in flight leaves in the tile registers when it runs to its end: its register, from the data
that arrived for a load, or the intermediate tile of a store (R122, R143, R144). -/
def Pleacher.deliver (p : Pleacher) (j : Job) (f : Flight) : Pleacher :=
  match f.deliver with
  | .reg t shape img => deliverReg p f t shape img f.mid
  | .load i a key =>
    let n := f.ckpt.n.toNat
    let get := operandByte j j.g (subOf i 0 2) a key
    let lost := operandLost j j.g (subOf i 0 2) a key
    let mid := if f.shadow then tldMid i j.desc.seed n j.desc.src.fill get lost else []
    deliverReg p f (tdOf i) (w3Of i) (tldImage i j.desc.seed n j.desc.src.fill get lost) mid
  | .perm _ _ _ _ => p
  | .store _ _ _ => { p with tile := Mem.putBytes p.tile (tileKey 8 0) f.mid }

/-- An instruction in flight that has issued all its row reads. Only the newest may not have (R130): a permutation
that waits for its route has not, a load from the host has once the mover has issued them, with TRANS once its data
are in and its second phase has read them, and of any other the clock decides, `n` saying how many of those in flight
have (R125, R159). -/
def Flight.readAll (e : Eng) (p : Pleacher) (j : Job) (n : Nat) (f : Flight) : Bool :=
  let old := f.id != p.newest || decide (p.flights.length ≤ n)
  match f.deliver with
  | .perm _ _ _ _ => false
  | .load _ _ key => if f.shadow then !keyPending e j key && old else !j.unissued key
  | _ => old

/-- The instructions in flight that run to their ends: the others are abandoned, with every one issued after them
(R125). -/
def Pleacher.running (p : Pleacher) (e : Eng) (j : Job) (n : Nat) : List Flight :=
  p.flights.takeWhile (fun f => f.readAll e p j n)

/-- An instruction that runs to its end once its job's status has arisen and whose result is there at once: not a
load whose data are still out, which are discarded, and not a store to a memory of the block (R125, R279). -/
def Flight.endsNow (e : Eng) (j : Job) (f : Flight) : Bool :=
  match f.deliver with
  | .load _ _ key => !keyPending e j key
  | .store space _ _ => space == 0
  | _ => true

/-- A store to a memory of the block, whose writes no ending status withdraws (R141, R279). -/
def Flight.storesHere (f : Flight) : Bool :=
  match f.deliver with
  | .store space _ _ => space != 0
  | _ => false

end Sys2Proof.Machine
end

