-- ==== Sys2Proof/Machine/Jobs.lean ====
section
/-! DEFINITION. Jobs that hold a slot: their claims, the selection of a READY slot, how an ending status
arises and how a job ends (10_hedger_scheduling, R125, R238, R239, R242, R279). -/

namespace Sys2Proof.Machine

open Sys2Proof

/-! ### Claims and staging (R160, R179, R181, R250, R252) -/

/-- The claims of a job on pleacher `g`: source, source scale, index, destination, destination scale
(R250). A planner program has no index box (R228). -/
def claimsOf (d : Desc) (g : Nat) : List Claim :=
  let box (space : Nat) (w : Bool) (b : Int × Int) : Claim := ⟨instOf g space, b.1, b.2, w⟩
  d.src.boxes.map (box d.src.space false) ++
  (if d.prog then [] else d.idxBox.toList.map (box d.idxSpace false)) ++
  d.dst.boxes.map (box d.dst.space true)

/-- Two boxes overlap (R49). -/
def Claim.meets (a b : Claim) : Bool := a.inst == b.inst && rangesMeet (a.lo, a.hi) (b.lo, b.hi)

/-- A later job with claims `new` waits for one that holds `old` (R252). -/
def mustWait (new old : List Claim) : Bool :=
  new.any (fun a => old.any (fun b => (a.write || b.write) && a.meets b))

/-- The read boxes that overlap a write box (R179). -/
def stagedClaims (cs : List Claim) : List Claim :=
  cs.filter (fun a => !a.write && cs.any (fun b => b.write && a.meets b))

/-- Placement of staged boxes in one region: each after the one before, rounded up to 64 (R181). -/
def placeBoxes : List Claim → Nat → List StagedBox
  | [], _ => []
  | c :: r, off =>
    let len := (c.hi - c.lo / 64 * 64).toNat
    ⟨c.inst, c.lo, c.hi, off, 0, 1, c.inst == .privet⟩ :: placeBoxes r (ceilDiv (off + len) 64 * 64)

/-- The staged boxes of a job with their placement: the host region's and the privet region's each from
offset 0 (R181, R183). -/
def stagedBoxes (cs : List Claim) : List StagedBox :=
  let s := stagedClaims cs
  placeBoxes (s.filter (fun c => c.inst != .privet)) 0 ++ placeBoxes (s.filter (fun c => c.inst == .privet)) 0

/-- A staged box in the privet bank. -/
def Job.stagesPrivet (j : Job) : Bool := j.boxes.any (fun b => b.privet)

/-- A pleacher has selected a job that has not started. -/
def Job.selected (e : Eng) (j : Job) : Bool :=
  (e.pl.look j.g).phase == .selected && (e.pl.look j.g).cur == j.slot

/-- A job has its pleacher: it starts, runs, waits to yield or is restored there. -/
def Job.onPleacher (e : Eng) (j : Job) : Bool :=
  (e.pl.look j.g).phase != .idle && (e.pl.look j.g).cur == j.slot

/-- A job holds its staging region from its selection for a start until its record is issued or it ends
otherwise (R182). -/
def Job.holdsRegion (e : Eng) (j : Job) : Bool :=
  j.staged && (j.begun || j.selected e) && !(j.st == .ended && j.status.isSome)

/-- The staging regions a staged job needs are free (R182, R183): the hedgerow's, and the privet region
in admission order. -/
def regionFree (e : Eng) (j : Job) : Bool :=
  !j.staged || j.begun ||
  (!e.jobs.any (fun k => k.g / 8 == j.g / 8 && k.holdsRegion e && k.key != j.key) &&
   (!j.stagesPrivet ||
     (!e.jobs.any (fun k => k.stagesPrivet && k.holdsRegion e && k.key != j.key) &&
      !(e.jobs.takeWhile (fun k => k.key != j.key)).any (fun k => k.stagesPrivet && k.st != .ended))))

/-! ### Selection (R257) -/

/-- A phase-bound job whose window is open (R257, R276). -/
def Job.windowOpen (j : Job) : Bool :=
  j.bound && (match j.win with | some w => w.opened | none => false)

/-- The READY slots of a pleacher that may be selected; a job whose status has arisen is not (R346). -/
def eligible (e : Eng) (g : Nat) : List Job :=
  e.jobs.filter (fun j => j.g == g && j.st == .ready && j.status.isNone && regionFree e j)

/-- Whether `a` is selected before `b` (R257); the list keeps admission order among equals. -/
def before (a b : Job) : Bool :=
  if a.windowOpen != b.windowOpen then a.windowOpen else decide (a.stamp < b.stamp)

/-- The first of a list under the order of R257. -/
def firstOf : List Job → Option Job
  | [] => none
  | j :: r =>
    match firstOf r with
    | none => some j
    | some k => if before k j then some k else some j

/-- A coppice slice keeps the pleacher from selecting (R328). -/
def sliceHolds (e : Eng) (g : Nat) : Bool :=
  match (e.hr.look (g / 8)).turn with
  | some t => t.tgt.code == g % 8
  | none => false

/-- A slot that became READY gets the next stamp. -/
def Eng.makeReady (e : Eng) (k : Nat × Nat) : Eng :=
  { e.onJob k (fun j => { j with st := .ready, stamp := e.stamp }) with stamp := e.stamp + 1 }

/-- The jobs that wait for one entry alone (R253). -/
def waitersOf (e : Eng) (k : Nat × Nat) : List (Nat × Nat) :=
  (e.jobs.filter (fun j => j.st == .waiting && j.wait == [k])).map Job.key

/-- A released entry leaves every wait set; a set that empties makes its slot READY (R253, R255). -/
def Eng.releaseWaits (e : Eng) (k : Nat × Nat) : Eng :=
  let ready := waitersOf e k
  let e := { e with jobs := e.jobs.map (fun j => { j with wait := j.wait.filter (fun x => x != k) }) }
  ready.foldl Eng.makeReady e

/-! ### Ending -/

/-- The offsets of a box within an on-block memory, each once. -/
def boxOffsets (c : Claim) : List Nat :=
  let size : Nat := match c.inst with | .host => 0 | .bank _ => 2 ^ 20 | .leaf _ => 2 ^ 19 | .privet => 2 ^ 19
  (upTo (min (c.hi - c.lo).toNat size)).map (fun (i : Nat) => ((c.lo + (i : Int)) % (size : Int)).toNat)

/-- One box filled with free bytes. -/
def Eng.havocBox (e : Eng) (c : Claim) : Eng :=
  let as := boxOffsets c
  let m := (as.zip (upTo as.length)).foldl
    (fun m x => m.put c.inst x.1 (Config.freeByte (e.free + x.2))) e.mem
  { e with mem := m, free := e.free + as.length }

/-- The end of a job leaves its write boxes undefined (R242, log 8). Not so where the spec says what stands: what a
planner program wrote before it was refused (R201), and what a job that a stop ends before it has begun, and so has
written nothing, finds there (R361, R363). -/
def Job.undone (j : Job) : Bool :=
  j.undef ||
  (match j.status with
   | none => false
   | some .privetDenied => !j.desc.prog
   | some .abortedStop => j.begun
   | some _ => true)

/-- The on-block write boxes of a job that ended undone hold undefined bytes (R242, log 8). The privet
bank is left alone where the job's access is refused (R201). -/
def Eng.havoc (v : Env) (e : Eng) (j : Job) : Eng :=
  (j.claims.filter (fun c => c.write && (c.inst != .privet || pvAdmits v e j.secure))).foldl Eng.havocBox e

/-- The job completes in the closing cycle of its window (R277). -/
def Job.edge (j : Job) (e : Eng) : Bool :=
  j.bound && j.status.isNone &&
  (match j.win with
   | some w => !w.closed && reached (e.dom.look j.desc.domain).pos (j.desc.closePos w.inst) &&
       (e.dom.look j.desc.domain).st == .running
   | none => false)

/-- The pleacher a job leaves: idle, and its tile registers zeroed after a secure ring's job (R116). -/
def Eng.leavePleacher (e : Eng) (j : Job) : Eng :=
  if j.onPleacher e then
    let e := e.onPl j.g (fun p =>
      { p with phase := .idle, flights := [], wait := .none, buf := [], fetch := [], build := none })
    if j.secure then e.zeroTiles j.g else e
  else e

/-- A job ends: its slot becomes ENDED and its record waits for its turn (R239, R255). -/
def Eng.endJob (v : Env) (e : Eng) (k : Nat × Nat) : Eng :=
  match e.jobAt k with
  | none => e
  | some j =>
    let edge := j.edge e
    let φ := if j.bound then (e.dom.look j.desc.domain).phase else 0
    let e := if j.undone then e.havoc v j else e
    let e := (e.leavePleacher j).onPl j.g (fun p => { p with incoming := p.incoming.filter (fun s => s != j.slot) })
    let e := e.onJob k (fun j =>
      { j with st := .ended, endPhase := φ, onEdge := edge, saveAt := .none, xq := [], rd := [], rdPsn := [],
               resolved := [], later := [], idxAt := [], srcAt := [], copy := ⟨[], [], []⟩ })
    e.onHed (fun h => { h with ends := h.ends ++
      [⟨j.ring, j.seq, some k, j.status.getD .abortedStop, j.desc.tag, j.desc.domain, φ, j.arose⟩] })

/-- A job whose status has arisen ends once nothing of it is in flight (R126, R239, R292). -/
def Eng.tryEnd (v : Env) (e : Eng) (k : Nat × Nat) : Eng :=
  match e.jobAt k with
  | none => e
  | some j =>
    let p := e.pl.look j.g
    let here := j.onPleacher e
    if j.st != .ended && j.status.isSome && !writesOut e k && (!here || p.flights.isEmpty) && j.xq.isEmpty
    then e.endJob v k else e

/-- STATUS code of an ending status (R236). -/
def Status.code : Status → Nat
  | .droppedLate => 0x10
  | .droppedPeriod => 0x11
  | .shapeFault => 0x20
  | .routeFault => 0x21
  | .fencedUnit => 0x30
  | .abortedStop => 0x31
  | .windowClosed => 0x40
  | .fabricError => 0x50
  | .fabricTimeout => 0x51
  | .privetDenied => 0x60

/-- Another cycle in which a status arises, unless the command falls in the latest one (R238, log 77). -/
def Eng.newCycle (e : Eng) : Eng := if e.tie then e else { e with cycle := e.cycle + 1 }

/-- A status of cycle `arose` meets another: the first stands, and of two in one cycle the higher code (R238). -/
def Eng.meet (e : Eng) (arose : Nat) (old new : Status) : Status :=
  if e.tie && arose == e.cycle && decide (old.code < new.code) then new else old

/-- The status of a job after `st` has arisen for it (R238); FAULT_IDX stays only with the fault that was raised at
issue (R235). -/
def Eng.withStatus (e : Eng) (st : Status) (j : Job) : Job :=
  match j.status with
  | none => { j with status := some st, arose := e.cycle }
  | some old =>
    let new := e.meet j.arose old st
    { j with status := some new, faultIdx := if new == old then j.faultIdx else 0 }

/-- A job's instructions in flight once its status has arisen (R125, R279): what the results of those that run to
their ends leave in the tile registers and in the record's flags stands at once, their stores to memories of the
block go on, and the rest is abandoned. Those that a yield has let run on had issued all their reads; of others, where
only the clock decides it, a free count says which have (log 75). -/
def Eng.quitFlights (e : Eng) (j : Job) : Eng :=
  let p := e.pl.look j.g
  let run := if p.wait == .yielding then p.flights else p.running e j (Config.freeCount e.free)
  let now := run.filter (fun f => f.endsNow e j)
  let e := if p.flights.isEmpty then e else e.draw 1
  (e.onPl j.g (fun p =>
    { now.foldl (fun p f => p.deliver j f) p with flights := run.filter Flight.storesHere, wait := .ending, build := none })).onJob
    j.key (fun j => { j with oob := j.oob || now.any (fun f => f.oob), poisoned := j.poisoned || now.any (fun f => f.lost j) })

/-- A job whose status has arisen makes no new transfer, and read data that come later are discarded (R279, R292,
R346). -/
def Eng.quitTransfers (e : Eng) (j : Job) : Eng :=
  (e.onJob j.key (fun j => { j with xq := [], ownerBusy := false })).onHr (j.g / 8) (fun h =>
    { h with xacts := h.xacts.map (fun x => if x.owner == j.key then { x with live := false } else x) })

/-- An ending status arises for a job in the present cycle: the first one stands (R238), instructions in flight run
to their ends or are abandoned and not restarted (R125), and no new transfer is made. Of a job that is ending or has
ended already only the status may change (R238). -/
def Eng.ariseNow (v : Env) (e : Eng) (k : Nat × Nat) (st : Status) : Eng :=
  match e.jobAt k with
  | none => e
  | some j =>
    let p := e.pl.look j.g
    let here := j.onPleacher e
    if j.st == .ended then (if j.status.isSome then e.onJob k (e.withStatus st) else e)
    else if here && p.wait == .ending then (e.onJob k (e.withStatus st)).tryEnd v k
    else
      let e := if here then e.quitFlights j else e
      (((e.onJob k (e.withStatus st))).quitTransfers j).tryEnd v k

/-- An ending status arises for a job (R238). -/
def Eng.arise (v : Env) (e : Eng) (k : Nat × Nat) (st : Status) : Eng := e.newCycle.ariseNow v k st

/-- A command carried out in the latest cycle in which a status arose, where `tie` says so (R238, log 77). -/
def Eng.tied (e : Eng) (tie : Bool) (f : Eng → Eng) : Eng := { f { e with tie := tie } with tie := false }

/-- The close entries of some jobs are freed, or have done their work (R279, R282, R346). -/
def Eng.shut (e : Eng) (p : Job → Bool) : Eng :=
  { e with jobs := e.jobs.map (fun j =>
      if p j then { j with win := j.win.map (fun w => { w with closed := true }) } else j) }

/-- A record into a list by ring, then SEQ. -/
def putEnd : List EndRef → EndRef → List EndRef
  | [], r => [r]
  | x :: xs, r =>
    if r.ring < x.ring || (r.ring == x.ring && decide (r.seq.toNat < x.seq.toNat)) then r :: x :: xs
    else x :: putEnd xs r

/-- The records that became due after the first `n` became due in one cycle: they stand by ring, then SEQ
(R239). -/
def Eng.orderEnds (n : Nat) (e : Eng) : Eng :=
  e.onHed (fun h => { h with ends := h.ends.take n ++ (h.ends.drop n).foldl putEnd [] })

/-- An ending status for every job of a list, in one cycle. -/
def Eng.ariseAll (v : Env) (e : Eng) (ks : List (Nat × Nat)) (st : Status) : Eng :=
  if ks.isEmpty then e
  else (ks.foldl (fun e k => e.ariseNow v k st) e.newCycle).orderEnds e.hed.ends.length

/-- The slots of a hedgerow's jobs. -/
def Eng.jobsOf (e : Eng) (h : Nat) : List (Nat × Nat) :=
  (e.jobs.filter (fun j => j.g / 8 == h)).map Job.key

/-- Whether a hedgerow still has a job that has not ended. -/
def Eng.busy (e : Eng) (h : Nat) : Bool := e.jobs.any (fun j => j.g / 8 == h && j.st != .ended)

/-- A write outside the time R365 permits leaves its effect on jobs in flight undefined: their data
become free (log 27). -/
def Eng.spoil (e : Eng) (p : Job → Bool) : Eng :=
  { e with jobs := e.jobs.map (fun j => if p j then { j with undef := true } else j) }

end Sys2Proof.Machine
end

