-- ==== Sys2Proof/Machine/Fabric.lean ====
section
/-! DEFINITION. How transfers become transactions: resolution of distributed tensors, issue on the
hedgerow ports, the control port and the local write path (R286-R293, R303-R306, R313-R321). -/

namespace Sys2Proof.Machine

open Sys2Proof

/-! ### Distributed tensors -/

/-- A 52-bit base from its two registers. -/
def base52 (lo hi : W32) (mask : Nat) : Nat :=
  (lo.toNat - lo.toNat % mask) + (hi.toNat % 2 ^ 20) * 2 ^ 32

/-- BL_t (R286). -/
def dtLog (r : DtRegs) : Nat := max 12 (min 30 (bits r.shape.toNat 16 5))

/-- NB_t (R286). -/
def dtBlocks (r : DtRegs) : Nat :=
  let n := bits r.shape.toNat 0 12
  if n == 0 then 4096 else n

/-- Whether the aperture of tensor t contains `a`. -/
def dtHas (v : Env) (a t : Nat) : Bool :=
  let r := v.regs.dt.look t
  let base := base52 r.aperLo r.aperHi (2 ^ 16)
  bitOn r.shape.toNat 31 && decide (base ≤ a) && decide (a < base + dtBlocks r * 2 ^ dtLog r)

/-- Tensor, block and offset that a host address resolves to (R287). -/
def dtFind (v : Env) (a : Nat) : Option (Nat × Nat × Nat) :=
  ((upTo 32).find? (dtHas v a)).map (fun t =>
    let r := v.regs.dt.look t
    let base := base52 r.aperLo r.aperHi (2 ^ 16)
    (t, (a - base) / 2 ^ dtLog r, a % 2 ^ dtLog r))

/-- The address of an owner-table entry (R287). -/
def ownerAt (v : Env) (t b : Nat) : Nat :=
  let r := v.regs.dt.look t
  (base52 r.otLo r.otHi (2 ^ 15) + 8 * b) % 2 ^ 52

/-! ### Transfers -/

/-- A 64-byte unit added to a rising list of units. -/
def addUnit : List Nat → Nat → List Nat
  | [], a => [a]
  | b :: r, a => if a < b then a :: b :: r else if a == b then b :: r else b :: addUnit r a

/-- The 64-byte units that hold the given bytes. -/
def unitsOf (as : List Nat) : List Nat := as.foldl (fun u a => addUnit u (a / 64 * 64)) []

/-- The tensor and block of a distributed tensor in which an address lies (R287). -/
def dtBlock (v : Env) (a : Nat) : Option (Nat × Nat) := (dtFind v a).map (fun x => (x.1, x.2.1))

/-- Rising units joined into runs of at most 2 KiB within a 4 KiB page (R304) and within one block of a
distributed tensor (R291; log 15). -/
def joinUnits (v : Env) : List Nat → List (Nat × Nat)
  | [] => []
  | a :: r =>
    match joinUnits v r with
    | [] => [(a, 64)]
    | (b, n) :: rest =>
      if b == a + 64 && n < 2048 && a / 4096 == b / 4096 && dtBlock v a == dtBlock v b
      then (a, n + 64) :: rest
      else (a, 64) :: (b, n) :: rest

/-- Read transfers for a list of host bytes; `key` is added to an address to form the place under which
its bytes are kept. -/
def readReqs (v : Env) (as : List Nat) (key : Nat) (resolve : Bool) : List Req :=
  (joinUnits v (unitsOf as)).map (fun x => ⟨false, resolve, x.1, x.2, [], [], .data (key + x.1)⟩)

/-- Write transfers for a list of host bytes with rising addresses. -/
def writeReqs (v : Env) (bs : List (Nat × Byte)) (p : Purpose) (resolve : Bool) : List Req :=
  (joinUnits v (unitsOf (bs.map (fun x => x.1)))).map (fun x =>
    ⟨true, resolve, x.1, x.2,
      (upTo x.2).map (fun i => (bs.find? (fun b => b.1 == x.1 + i)).map (fun b => b.2)), [], p⟩)

/-- Transfers queued for a job. -/
def Eng.enqueue (e : Eng) (k : Nat × Nat) (rs : List Req) : Eng :=
  e.onJob k (fun j => { j with xq := j.xq ++ rs })

/-- Tags a port has in use. -/
def Hedgerow.tags (h : Hedgerow) : List Nat := h.xacts.map (fun x => x.tag)

/-- The request-ready bit of a class on a hedgerow's port (R303). -/
def hfpReady (v : Env) (h sc : Nat) : Bool := (v.pins.rdy.hfp.look h).toNat.testBit sc

/-- A transaction issued on a port, if its class is ready and below its cap and a tag is free (R304, R313,
R314). -/
def issueOn (v : Env) (e : Eng) (j : Job) (x : Xact) : Option Eng :=
  let h := j.g / 8
  let hr := e.hr.look h
  let tag := if x.write then freeTag hr.tags 512 768 else freeTag hr.tags 0 512
  let below := x.write ||
    decide ((hr.xacts.filter (fun y => !y.write && y.sc == x.sc)).length < readCap v h x.sc)
  match tag with
  | some t => if below && hfpReady v h x.sc then some (e.onHr h (fun r => { r with xacts := r.xacts ++ [{ x with tag := t }] })) else none
  | none => none

/-- The transaction of a transfer at address `a`. -/
def xactOf (j : Job) (r : Req) (a : Nat) (remote : Bool) (node win : Nat) : Xact :=
  ⟨0, r.write, remote, a % 2 ^ 52, r.len, j.desc.sc, j.secure, node, win, r.data, r.psn, j.key, j.admitSeq, r.purpose, 0,
    false, true, false, r.addr⟩

/-- What a remote block gives a read (R290): units the FILL replaces; of a staging copy the unit stands for a
remote one from then on (log 26). KZ_DT_RMT_RD counts one for each transfer the mover asks for, and no rule gives
another unit (log 79). -/
def remoteRead (e : Eng) (j : Job) (r : Req) : Eng :=
  let e := e.onCnt (fun c => { c with dtRmtRd := satInc c.dtRmtRd 1 })
  match r.purpose with
  | .data key => e.onJob j.key (fun j => { j with remote := j.remote ++ (upTo (r.len / 64)).map (fun i => key + 64 * i) })
  | .stageRead n => e.onJob j.key (fun j => { j with copy := { j.copy with remote := j.copy.remote ++ [n] } })
  | _ => e

/-- The first `n` bytes of a transfer, and the rest of it. -/
def splitReq (r : Req) (n : Nat) : Req × Req :=
  ({ r with len := n, data := r.data.take n, psn := r.psn.take (n / 64) },
   { r with
     addr := r.addr + n, len := r.len - n, data := r.data.drop n, psn := r.psn.drop (n / 64)
     purpose := match r.purpose with | .data key => .data (key + n) | p => p })

/-- The part of a transfer that may be issued at address `a`, which its resolution may have placed across a
4 KiB boundary (R304), and what is left of it. -/
def cutAt (r : Req) (a : Nat) : Req × List Req :=
  let room := 4096 - a % 4096
  if r.len ≤ room then (r, []) else ((splitReq r room).1, [(splitReq r room).2])

/-- The data of a write as the mover drives them: free where R365 leaves the job's effect undefined (log 27). -/
def drivenData (e : Eng) (j : Job) (r : Req) : Eng × Req :=
  if j.undef && r.write then
    (e.draw r.len,
     { r with data := (r.data.zip (upTo r.data.length)).map (fun x => x.1.map (fun _ => Config.freeByte (e.free + x.2))) })
  else (e, r)

/-- A transfer of a job issued at address `a`, and what is left of it queued first. -/
def issueReq (v : Env) (e : Eng) (j : Job) (r : Req) (rest : List Req) (a : Nat) (remote : Bool) (node win : Nat) :
    Option Eng :=
  let c := cutAt r a
  let x := drivenData e j c.1
  (issueOn v x.1 j (xactOf j x.2 a remote node win)).map
    (fun e => e.onJob j.key (fun j => { j with xq := c.2 ++ rest }))

/-- The first transfer of a job issued, if it can be; a remote write in quickset mode closes the job's window once
it could issue, and issues nothing (R287-R293, R313). -/
def issueHead (v : Env) (e : Eng) (j : Job) : Option Eng :=
  match j.xq with
  | [] => none
  | r :: rest =>
    let pop (e : Eng) : Eng := e.onJob j.key (fun j => { j with xq := rest })
    if !e.iface.mayIssue j.desc.sc then none
    else
      match (if r.resolve then dtFind v (r.addr % 2 ^ 52) else none) with
      | none => issueReq v e j r rest r.addr false 0 0
      | some (t, b, o) =>
        match j.resolved.find? (fun x => x.1 == t && x.2.1 == b) with
        | none =>
          if j.ownerBusy then none
          else
            (issueOn v e j (xactOf j ⟨false, false, 0, 8, [], [], .owner t b⟩ (ownerAt v t b) false 0 0)).map
              (fun e => e.onJob j.key (fun j => { j with ownerBusy := true }))
        | some (_, _, node, base) =>
          if node == bits v.regs.nodeId.toNat 0 6 then issueReq v e j r rest (base + o) false 0 0
          else if !r.write then some (remoteRead (pop e) j r)
          else if v.ao.qs then
            (issueReq v e j r rest (base + o) true node t).map (fun _ => (pop e).arise v j.key .windowClosed)
          else
            (issueReq v e j r rest (base + o) true node t).map
              (fun e => e.onCnt (fun c => { c with dtRmtWr := satInc c.dtRmtWr 1 }))

/-- Jobs of a hedgerow with a transfer of a class waiting. -/
def waitingJobs (e : Eng) (h sc : Nat) : List Job :=
  e.jobs.filter (fun j => j.g / 8 == h && j.desc.sc == sc && !j.xq.isEmpty)

/-- How many places a job of its class stands behind the pleacher and slot to be served next (R313 step 3;
where the rounds begin after a reset: log 35). -/
def grantRank (r : Grants) (j : Job) : Nat :=
  32 * ((j.g % 8 + 8 - r.nextPl.look j.desc.sc) % 8) +
  (j.slot + 32 - r.nextSlot.look (8 * j.desc.sc + j.g % 8)) % 32

/-- A job into a list by rising rank. -/
def byGrant (r : Grants) : List Job → Job → List Job
  | [], j => [j]
  | x :: rest, j => if grantRank r j < grantRank r x then j :: x :: rest else x :: byGrant r rest j

/-- The order in which a hedgerow's classes are tried: an SC3 request that has waited through 63 grants to
other classes goes first (R313 step 2). -/
def classOrder (r : Grants) : List Nat := if r.waited < 63 then [0, 1, 2, 3] else [3, 0, 1, 2]

/-- A grant noted: the rounds go on behind the job, and a waiting SC3 request counts it (R313). -/
def noteGrant (e : Eng) (j : Job) (e' : Eng) : Eng :=
  let h := j.g / 8
  if (e'.hr.look h).xacts.length == (e.hr.look h).xacts.length then e'
  else
    let sc := j.desc.sc
    e'.onHr h (fun r => { r with grants := {
      nextPl := r.grants.nextPl.put sc ((j.g % 8 + 1) % 8)
      nextSlot := r.grants.nextSlot.put (8 * sc + j.g % 8) ((j.slot + 1) % 32)
      waited := if sc == 3 || (waitingJobs e h 3).isEmpty then 0 else r.grants.waited + 1 } })

/-- One transfer of a hedgerow issued: by class, then by pleacher and slot in rounds, within a job in the
order it produced them (R313). -/
def pumpOnce (v : Env) (e : Eng) (h : Nat) : Option Eng :=
  let r := (e.hr.look h).grants
  (classOrder r).findSome? (fun sc =>
    ((waitingJobs e h sc).foldl (byGrant r) []).findSome? (fun j => (issueHead v e j).map (noteGrant e j)))

/-- Transfers issued until none can be. -/
def pumpN : Nat → Env → Eng → Nat → Eng
  | 0, _, e, _ => e
  | n + 1, v, e, h =>
    match pumpOnce v e h with
    | none => e
    | some e' => pumpN n v e' h

/-- Every transfer a hedgerow can issue. -/
def Eng.pump (v : Env) (e : Eng) (h : Nat) : Eng :=
  let n := (e.jobs.filter (fun j => j.g / 8 == h)).foldl (fun n j => n + 4 * j.xq.length) 0
  pumpN n v e h

/-! ### Control port and local write path -/

/-- Requests of the control port issued in order (R303, R304, R318). -/
def pumpCfpN : Nat → Env → Eng → Eng
  | 0, _, e => e
  | n + 1, v, e =>
    match e.hed.cfpWant with
    | [] => e
    | x :: rest =>
      if e.iface.quiesce || !v.pins.rdy.cfp then e
      else
        let used := e.hed.cfpOut.map (fun y => y.tag)
        let wr := match x.who with | .record _ _ => true | _ => false
        match (if wr then freeTag used 128 192 else freeTag used 0 128) with
        | none => e
        | some t =>
          pumpCfpN n v (e.onHed (fun h => { h with cfpWant := rest, cfpOut := h.cfpOut ++ [{ x with tag := t }] }))

/-- Every request the control port can issue. -/
def Eng.pumpCfp (e : Eng) (v : Env) : Eng := pumpCfpN e.hed.cfpWant.length v e

/-- A request of the Hedger queued on the control port. -/
def Eng.cfpAsk (e : Eng) (x : CfpX) : Eng := e.onHed (fun h => { h with cfpWant := h.cfpWant ++ [x] })

/-- Two local writes write a common byte's place. -/
def MwX.meets (x y : MwX) : Bool := decide (x.addr < y.addr + y.data.length) && decide (y.addr < x.addr + x.data.length)

/-- A local write that may be issued: its class may issue and is ready, the writes of its own transaction before it
have issued, and no write of an earlier transaction to an overlapping range waits or is outstanding (R296, R303, R318,
R319, R321; log 35). -/
def mwMay (v : Env) (e : Eng) (x : MwX) : Bool :=
  e.iface.mayIssue x.sc && v.pins.rdy.iwp.toNat.testBit x.sc && e.iwp.want.find? (fun y => y.num == x.num) == some x &&
  !(e.iwp.want.any (fun y => decide (y.num < x.num) && y.meets x)) &&
  !(e.iwp.out.any (fun y => y.num != x.num && !y.timedOut && y.meets x))

/-- Local writes issued: the first that may be (R296). -/
def pumpIwpN : Nat → Env → Eng → Eng
  | 0, _, e => e
  | n + 1, v, e =>
    match e.iwp.want.find? (mwMay v e) with
    | none => e
    | some x =>
      match freeTag (e.iwp.out.map (fun y => y.tag)) 0 64 with
      | none => e
      | some t =>
        pumpIwpN n v { e with iwp := { e.iwp with
          want := e.iwp.want.erase x, out := e.iwp.out ++ [{ x with tag := t }] } }

/-- Every local write that can issue. -/
def Eng.pumpIwp (e : Eng) (v : Env) : Eng := pumpIwpN e.iwp.want.length v e

end Sys2Proof.Machine
end

