-- ==== Sys2Proof/Machine/Access.lean ====
section
/-! DEFINITION. How a job reaches memory: staged addresses, memories that sleep or are cleared or lent,
the privet check, and the bytes a job reads (R180, R181, R200, R205, R208, R332). -/

namespace Sys2Proof.Machine

open Sys2Proof

/-- The answer a memory gives an access: served, made to wait, or refused (R200). -/
inductive Access
  | ok | wait | denied
  deriving DecidableEq, Repr, Inhabited

/-- Whether a byte is borrowed by a slice of hedgerow `h`'s turn (R331). -/
def borrowed (e : Eng) (i : Inst) (a : Nat) : Bool :=
  match i with
  | .leaf g =>
    (match (e.hr.look (g / 8)).turn with
     | some t => t.st != .waiting && t.tgt.code == 10 && t.tgt.pl == g % 8 && a % 2 ^ 19 / 2 ^ 15 == t.tgt.unit
     | none => false)
  | .bank h =>
    (match (e.hr.look h).turn with
     | some t => t.st != .waiting && t.tgt.code == 11 && t.pages.contains (a % 2 ^ 20 / 4096)
     | none => false)
  | _ => false

/-- A borrowed row is reclaimed for a job's access (R332): the slice's collar stops, the rows are to be
zeroed, and the record of every job whose access stalls carries BIST_RECLAIM. A slice already stopped for
another reason (R335) is only waited for. -/
def Eng.reclaim (e : Eng) (h : Nat) (k : Nat × Nat) : Eng :=
  match (e.hr.look h).turn with
  | none => e
  | some t =>
    if t.st == .running || t.reclaim then
      (e.onHr h (fun r => { r with turn := some { t with st := .clearing, reclaim := true } })).onJob k
        (fun j => { j with reclaimed := true })
    else e

/-- A memory asked for some of its bytes: a sleeping memory starts to wake (R205), one being cleared or
powered down makes the access wait (R208), borrowed rows are reclaimed (R332). -/
def Eng.touch (v : Env) (e : Eng) (k : Nat × Nat) (i : Inst) (as : List Nat) : Eng × Access :=
  match i with
  | .host => (e, .ok)
  | .privet =>
    (match e.jobAt k with
     | some j => (e, if pvAdmits v e j.secure then .ok else .denied)
     | none => (e, .denied))
  | .leaf g =>
    let h := g / 8
    let r := e.hr.look h
    if v.isOff h (groupOf g) || bitOn r.lsInit.toNat (g % 8 / 4) then (e, .wait)
    else
      (match r.lsRet.look (g % 8) with
       | .retained => (e.onHr h (fun r => { r with lsRet := r.lsRet.put (g % 8) .waking }), .wait)
       | .waking => (e, .wait)
       | .awake => if as.any (borrowed e i) then (e.reclaim h k, .wait) else (e, .ok))
  | .bank h =>
    let r := e.hr.look h
    if v.isOff h 3 || r.hbInit then (e, .wait)
    else
      (match r.hbRet with
       | .retained => (e.onHr h (fun r => { r with hbRet := .waking }), .wait)
       | .waking => (e, .wait)
       | .awake => if as.any (borrowed e i) then (e.reclaim h k, .wait) else (e, .ok))

/-- The worse of two answers. -/
def Access.worse : Access → Access → Access
  | .denied, _ => .denied
  | _, .denied => .denied
  | .wait, _ => .wait
  | .ok, x => x

/-- Several memories asked in turn. -/
def Eng.touchAll (v : Env) (e : Eng) (k : Nat × Nat) : List (Inst × List Nat) → Eng × Access
  | [] => (e, .ok)
  | (i, as) :: r =>
    if as.isEmpty then e.touchAll v k r
    else
      let x := e.touch v k i as
      let y := x.1.touchAll v k r
      (y.1, x.2.worse y.2)

/-- The byte a built-in program reads for a piece of a tensor in `space`; `m` holds what the memories of the
block granted it (R202). -/
def builtinByte (m : Mem) (j : Job) (space : Nat) (p : Piece) : Byte :=
  match j.placeOf (spotOf j space p) with
  | (.host, a) => Mem.byte j.rd a
  | (i, a) => Mem.byte m (placeKey i a)

/-- Whether the unit a piece is read from arrived poisoned (R53). -/
def builtinPsn (j : Job) (space : Nat) (p : Piece) : Bool :=
  match j.placeOf (spotOf j space p) with
  | (.host, a) => j.rdPsn.contains (a / 64 * 64)
  | _ => false

/-- Whether the unit a piece is read from belongs to a remote block (R290). -/
def builtinRemote (j : Job) (space : Nat) (p : Piece) : Bool :=
  j.remoteCopy (spotOf j space p) ||
  (match j.placeOf (spotOf j space p) with
   | (.host, a) => j.remote.contains (a / 64 * 64)
   | _ => false)

/-- Whether an element takes the FILL because its unit is poisoned or remote (R53, R290). -/
def builtinLost (j : Job) (space : Nat) (p : Piece) : Bool := builtinPsn j space p || builtinRemote j space p

/-- The host bytes among reads that lie at their own places. -/
def ownHost (j : Job) (ss : List Spot) : List Nat :=
  ss.filterMap (fun s => if (j.stagedAt s.1 s.2.1).isNone && s.1 == .host then some s.2.2 else none)

/-- The host bytes among reads that lie in the staging region. -/
def regionHost (j : Job) (ss : List Spot) : List Nat :=
  ss.filterMap (fun s =>
    match j.stagedAt s.1 s.2.1 with
    | some b => if b.privet then none else some (b.at s.2.1)
    | none => none)

/-- The transfers for a list of reads: those of the staging region are not resolved (R287). -/
def spotReads (v : Env) (j : Job) (ss : List Spot) (key : Nat) : List Req :=
  readReqs v (ownHost j ss) key true ++ readReqs v (regionHost j ss) key false

/-- The on-block accesses among reads, joined by memory. -/
def blockOf (j : Job) (ss : List Spot) : List (Inst × List Nat) :=
  let xs := (ss.map j.placeOf).filter (fun x => x.1 != .host)
  (xs.map (fun x => x.1)).eraseDups.map (fun i => (i, (xs.filter (fun x => x.1 == i)).map (fun x => x.2)))

/-- The bytes of the block's memories that a list of reads is granted. -/
def granted (e : Eng) (j : Job) (ss : List Spot) : Mem :=
  ss.foldr (fun s m =>
    match j.placeOf s with
    | (.host, _) => m
    | (i, a) => Mem.put m (placeKey i a) (e.mem.byte i a)) []

/-- The bytes of a run of `n` that a planner program or a route map reads from `a` of a memory. -/
def runSpots (j : Job) (i : Inst) (reduce : Nat → Nat) (a n : Nat) : List Spot :=
  (upTo n).map (fun o => let x := reduce (a + o); (i, j.unOf i x, x))

/-- Byte `o` of a run as memory holds it now. -/
def spotNow (e : Eng) (j : Job) (s : Spot) : Byte :=
  match j.placeOf s with
  | (.host, _) => 0
  | (i, a) => e.mem.byte i a

/-- The on-block bytes of a run kept with those that come from the host. -/
def keepNow (e : Eng) (j : Job) (key : Nat) (ss : List Spot) (m : Mem) : Mem :=
  (ss.zip (upTo ss.length)).foldr (fun x m =>
    match j.placeOf x.1 with
    | (.host, _) => m
    | (i, a) => Mem.put m (key + 2 ^ 52 + x.2) (e.mem.byte i a)) m

/-- Whether a read or a transfer of a job is still to come. -/
def readsOut (e : Eng) (j : Job) : Bool :=
  j.xq.any (fun r => !r.write) ||
  (e.hr.look (j.g / 8)).xacts.any (fun x => !x.write && x.owner == j.key && x.live)

/-- Bytes stored by a job into a memory of the block. -/
def Eng.store (e : Eng) (i : Inst) (bs : List (Nat × Byte)) : Eng :=
  { e with mem := bs.foldl (fun m x => m.put i x.1 x.2) e.mem }

/-- Whether a range of a memory of `n` bytes from `a` meets one from `b`, both modulo the memory's size. -/
def wrapMeets (size a n b m : Nat) : Bool :=
  if n == 0 || m == 0 then false
  else decide ((b + size - a % size) % size < n) || decide ((a + size - b % size) % size < m)

/-- Privet offset of save slot k (R375). -/
def pvSlotAt (v : Env) (k : Nat) : Nat :=
  (v.sec.saveBase.toNat % 2 ^ 19 / 65536 * 65536 + 66560 * k) % 2 ^ 19

/-- PV_SAVE_SLOTS (R375). -/
def pvSlotCount (v : Env) : Nat := bits v.sec.cfg.toNat 18 3

/-- A write to the privet bank that meets a save slot leaves the job saved there with undefined contents
(R375, log 10). -/
def Eng.spoilSlots (v : Env) (e : Eng) (a n : Nat) : Eng :=
  { e with jobs := e.jobs.map (fun j =>
      match j.saveAt with
      | .privet k => if wrapMeets (2 ^ 19) (pvSlotAt v k) 66560 a n then { j with savedOk := false } else j
      | _ => j) }

end Sys2Proof.Machine
end

