-- ==== Sys2Proof/Machine/Builtin.lean ====
section
/-! DEFINITION. A built-in program from its start to its end, and the staging copy (R21, R43, R102,
R160-R184, R228-R231). The program reads its index, its source and the bytes it merges, and then writes;
each part waits for the transfers of the part before it (log 12). -/

namespace Sys2Proof.Machine

open Sys2Proof

/-- The index of a coordinate as the job has read it: none where its unit is poisoned or remote (R168, R290;
log 26). -/
def Job.indexOf (j : Job) (c : List Nat) : Option Int :=
  let ps := j.desc.idxPieces c
  if ps.any (builtinLost j j.desc.idxSpace) then none
  else some (j.desc.idxValue (readPieces (builtinByte j.idxAt j j.desc.idxSpace) ps))

/-- The items of a job whose index has been read. -/
def Job.items (j : Job) : List Item := j.desc.items j.units j.indexOf

/-- Poisoned index or source data have been replaced (R53, R168). -/
def Job.sawPoison (j : Job) : Bool :=
  j.desc.indexed.any (fun c => (j.desc.idxPieces c).any (builtinPsn j j.desc.idxSpace)) ||
  j.desc.readsPoison (builtinPsn j j.desc.src.space) j.items

/-- The bytes a job reads of its index. -/
def Job.indexSpots (j : Job) : List Spot :=
  (j.desc.indexed.flatMap j.desc.idxPieces).map (spotOf j j.desc.idxSpace)

/-- The bytes a job reads of its source. -/
def Job.sourceSpots (j : Job) : List Spot := (itemReads j.desc j.items).map (spotOf j j.desc.src.space)

/-- The destination bytes whose other bits are kept (R43), in host memory. -/
def Job.mergeBytes (j : Job) : List Nat :=
  match instOf j.g j.desc.dst.space with
  | .host => (j.desc.written j.items).partialBytes
  | _ => []

/-- The bytes a job writes, merged with what they held (R43). -/
def Job.result (e : Eng) (j : Job) : List (Nat × Byte) :=
  let i := instOf j.g j.desc.dst.space
  let old (a : Nat) : Byte := match i with | .host => Mem.byte j.rd a | _ => e.mem.byte i a
  (j.desc.patch (builtinByte j.srcAt j j.desc.src.space) (builtinLost j j.desc.src.space) j.items).map
    (fun x => (x.1, patchByte x.2.1 x.2.2 (old x.1)))

/-- What a step of a built-in program does when a memory answers. -/
def onAccess (v : Env) (k : Nat × Nat) (x : Eng × Access) (f : Eng → Eng × Bool) : Eng × Bool :=
  match x.2 with
  | .ok => f x.1
  | .wait => (x.1, false)
  | .denied => (x.1.arise v k .privetDenied, false)

/-- The bytes of a route map (R94, R95). -/
def mapSpots (j : Job) (b : Binding) : List Spot :=
  let n := 2 * 2 ^ unitBits b.grain
  if b.space == 1 then runSpots j (.leaf j.g) (fun a => a % 2 ^ 19) (mapStart b) n
  else runSpots j (.bank (j.g / 8)) (fun a => a % 2 ^ 20) (mapStart b) n

/-- The units of a map from its bytes (R94, R96). -/
def mapUnits (b : Binding) (bytes : List Byte) : List Nat := normalizeMap (mapEntries b.grain (fun n => nth bytes n 0))

/-- The route builder takes a map whose memories have granted it: at once, or, where staged bytes of it come
from the host, once they have arrived under `key` (R97, R180). -/
def startBuild (v : Env) (e : Eng) (j : Job) (b : Binding) (key : Nat) : Eng :=
  let ss := mapSpots j b
  let e := e.onHrCnt (j.g / 8) (fun c => { c with rcMiss := satInc c.rcMiss 1 })
  if ss.all (fun s => (j.placeOf s).1 != .host) then
    e.onPl j.g (fun p => { p with build := some ⟨b.id, b.grain, mapUnits b (ss.map (spotNow e j)), none⟩ })
  else
    ((e.onPl j.g (fun p => { p with build := some ⟨b.id, b.grain, [], some (key, ss)⟩ })).onJob j.key
      (fun x => { x with rd := keepNow e j key ss x.rd })).enqueue j.key (spotReads v j ss key)

/-- The build whose map has arrived, and whether it has: a poisoned or remote byte of a map has no value the
manual gives (log 39). -/
def buildReady (e : Eng) (j : Job) (b : Build) : Option (Eng × Build) :=
  match b.pend with
  | none => some (e, b)
  | some (key, ss) =>
    if keyPending e j key then none
    else
      let bytes := (ss.zip (upTo ss.length)).map (fun x =>
        if spotLost j key x.1 then Config.freeByte (e.free + x.2) else spotKept j key x.2 x.1)
      some ((e.onJob j.key (fun j => j.giveUp key)).draw ss.length,
        { b with src := mapUnits ⟨b.id, 0, 0, b.grain⟩ bytes, pend := none })

/-- Lookup of a MAP selector's route for a built-in program (R100, R102, R230). -/
def builtinRoute (v : Env) (e : Eng) (k : Nat × Nat) (j : Job) : Eng × Bool :=
  let sets := cacheSets v.cfg
  let sel := j.desc.sel
  let h := j.g / 8
  match cacheFind sets (e.pl.look j.g).routes (selId sel) with
  | some r =>
    let e := e.onPl j.g (fun p => { p with routes := cacheTouch p.routes r })
    let e := e.onHrCnt h (fun c => { c with rcHit := satInc c.rcHit 1 })
    (e.onJob k (fun j => { j with units := some r.src }), true)
  | none =>
    onAccess v k (e.touchAll v k (blockOf j (mapSpots j (bindingOf sel)))) (fun e =>
      ((startBuild v e j (bindingOf sel) 0).onJob k (fun j => { j with bphase := .route }), false))

/-- From the start to the index reads; the memories of the block grant their bytes at once (R202). -/
def builtinIndex (v : Env) (e : Eng) (k : Nat × Nat) (j : Job) : Eng × Bool :=
  let ss := j.indexSpots
  onAccess v k (e.touchAll v k (blockOf j ss)) (fun e =>
    ((e.enqueue k (spotReads v j ss 0)).onJob k (fun x => { x with bphase := .index, idxAt := granted e j ss }), true))

/-- From the index to the source and merge reads. -/
def builtinSource (v : Env) (e : Eng) (k : Nat × Nat) (j : Job) : Eng × Bool :=
  let ss := j.sourceSpots
  onAccess v k (e.touchAll v k (blockOf j ss)) (fun e =>
    let rs := readReqs v (ownHost j ss ++ j.mergeBytes) 0 true ++ readReqs v (regionHost j ss) 0 false
    let oob := j.desc.opc == 2 && j.desc.scatterOob j.indexOf
    ((e.enqueue k rs).onJob k (fun x =>
      { x with bphase := .source, oob := x.oob || oob, srcAt := granted e j ss }), true))

/-- The refusals a job's on-block writes cause at the other port of the memory: a number only the clock decides
(R188, R196; log 14). -/
def Eng.refuse (e : Eng) (i : Inst) (n : Nat) : Eng :=
  match i with
  | .leaf g => e.onHrCnt (g / 8) (fun c => { c with lsCollide := satInc c.lsCollide n })
  | .bank h => e.onHrCnt h (fun c => { c with hbCollide := satInc c.hbCollide n })
  | _ => e

/-- From the source to the writes. -/
def builtinWrite (v : Env) (e : Eng) (k : Nat × Nat) (j : Job) : Eng × Bool :=
  let bs := j.result e
  let i := instOf j.g j.desc.dst.space
  let psn := j.sawPoison
  onAccess v k (if bs.isEmpty then (e, .ok) else e.touch v k i (bs.map (fun x => x.1))) (fun e =>
    let e := e.onJob k (fun j => { j with bphase := .writes, poisoned := j.poisoned || psn })
    match i with
    | .host => (e.enqueue k (writeReqs v bs .dest true), true)
    | _ => if bs.isEmpty then (e, true) else (((e.store i bs).refuse i (Config.freeCount e.free)).draw 1, true))

/-- One part of a built-in program, and whether the next may follow. A program that yields is RUNNING no more and begins
no part. A reorder whose source has no elements reads nothing, and so looks no route up, since nothing passes one (R48;
log 22). A CACHED selector ends the job ROUTE_FAULT, where the destination has no elements too (R48, R102; log 22). -/
def builtinStep (v : Env) (e : Eng) (k : Nat × Nat) : Eng × Bool :=
  match e.jobAt k with
  | none => (e, false)
  | some j =>
    if j.desc.prog || j.st != .running || j.status.isSome || readsOut e j ||
       (j.staged && j.stage != .done) || (e.pl.look j.g).phase != .running || (e.pl.look j.g).cur != j.slot
    then (e, false)
    else
      match j.bphase with
      | .start =>
        if j.desc.opc == 0 && j.units.isNone && selClass j.desc.sel == 8 then
          (e.arise v k .routeFault, false)
        else if j.desc.opc == 0 && j.units.isNone && selClass j.desc.sel == 7 && !j.desc.src.empty then
          builtinRoute v e k j
        else builtinIndex v e k j
      | .route => (e, false)
      | .index => builtinSource v e k j
      | .source => builtinWrite v e k j
      | .writes => if writesOut e k || !j.xq.isEmpty then (e, false) else (e.endJob v k, false)

/-- Parts of a built-in program until one waits, transfers issued after each. -/
def advanceN : Nat → Env → Eng → Nat × Nat → Eng
  | 0, _, e, _ => e
  | n + 1, v, e, k =>
    let x := builtinStep v e k
    let e := x.1.pump v (k.1 / 8)
    if x.2 then advanceN n v e k else e

/-! ### Staging (R181-R183, R401) -/

/-- Staging base and size of a box's region, sampled as the copy begins (R401). -/
def sampleBox (v : Env) (h : Nat) (b : StagedBox) : StagedBox :=
  if b.privet then
    { b with base := v.sec.stageBase.toNat % 2 ^ 19 / 65536 * 65536,
             size := min 8 (max 1 (bits v.sec.stageSize.toNat 0 4)) }
  else
    let r := v.regs.hr.look h
    { b with base := base52 r.stageLo r.stageHi (2 ^ 16), size := max 1 (bits r.stageSize.toNat 0 16) }

/-- The 64-byte units of a staged box, by unreduced address (R320). -/
def boxUnits (b : StagedBox) : List Int :=
  let first := b.lo / 64
  (upTo ((b.hi + 63) / 64 - first).toNat).map (fun (n : Nat) => (first + (n : Int)) * 64)

/-- An unreduced address within a memory (R35). -/
def reduceInst (i : Inst) (un : Int) : Nat :=
  match i with
  | .host => (un % 2 ^ 52).toNat
  | .bank _ => (un % 2 ^ 20).toNat
  | _ => (un % 2 ^ 19).toNat

/-- The units of a copy in order: ascending within each box, boxes in the order of R181 (R182). -/
def copyUnits (bs : List StagedBox) : List (StagedBox × Int) :=
  bs.flatMap (fun b => (boxUnits b).map (fun u => (b, u)))

/-- The units of a copy with their numbers. -/
def copyList (bs : List StagedBox) : List ((StagedBox × Int) × Nat) :=
  (copyUnits bs).zip (upTo (copyUnits bs).length)

/-- The place under which a job keeps the bytes of its save record while it is restored. -/
def restoreKey : Nat := 2 ^ 52

/-- What a box asks of its memory before the copy. -/
def boxAccess (b : StagedBox) : Inst × List Nat :=
  (b.inst, match b.inst with | .host => [] | i => (boxUnits b).map (reduceInst i))

/-- The units of a copy that lie in memories of the block, as they are read. -/
def copyNow (e : Eng) (bs : List StagedBox) : Mem :=
  (copyList bs).foldr (fun x m =>
    match x.1.1.inst with
    | .host => m
    | i => Mem.putBytes m (64 * x.2) (e.mem.bytes i (reduceInst i x.1.2) 64)) []

/-- The reads of a copy's host units (R287). -/
def copyReads (bs : List StagedBox) : List Req :=
  (copyList bs).filterMap (fun x =>
    match x.1.1.inst with
    | .host => some ⟨false, true, reduceInst .host x.1.2, 64, [], [], .stageRead x.2⟩
    | _ => none)

/-- The copy of a job's boxes begins: they are placed, on-block units are read and host units asked for
(R182, R401). -/
def beginCopy (v : Env) (e : Eng) (j : Job) : Eng :=
  let bs := j.boxes.map (sampleBox v (j.g / 8))
  (e.onJob j.key (fun j =>
    { j with boxes := bs, stage := .copying, copy := ⟨copyNow e bs, [], []⟩, copyRemote := [] })).enqueue j.key (copyReads bs)

/-- The last of the pairs with each key: later copy bytes replace earlier ones (R181). -/
def lastOnes : List (Nat × Nat) → List (Nat × Nat)
  | [] => []
  | x :: r => if r.any (fun y => y.1 == x.1) then lastOnes r else x :: lastOnes r

/-- The region units a copy writes, each with the number of the unit that stands in it: host units by address,
privet units by 2^52 and their offset. -/
def regionUnits (j : Job) : List (Nat × Nat) :=
  lastOnes ((copyList j.boxes).map (fun x =>
    ((if x.1.1.privet then 2 ^ 52 else 0) + x.1.1.at x.1.2, x.2)))

/-- The bytes of a unit of a copy. -/
def copyBytes (j : Job) (n : Nat) : List Byte := Mem.bytes j.copy.rd (64 * n) 64

/-- One unit of a copy written to its region, with its poison (R182, R183, R320). -/
def copyOut (v : Env) (k : Nat × Nat) (j : Job) (e : Eng) (x : Nat × Nat) : Eng :=
  if x.1 < 2 ^ 52 then
    e.enqueue k [⟨true, false, x.1, 64, (copyBytes j x.2).map some, [j.copy.psn.contains x.2], .stageWrite⟩]
  else
    ({ e with mem := e.mem.putBytes .privet (x.1 - 2 ^ 52) (copyBytes j x.2) }).spoilSlots v (x.1 - 2 ^ 52) 64

/-- A read of a job's copy is still to come. -/
def copyReadsOut (e : Eng) (j : Job) : Bool :=
  j.xq.any (fun r => match r.purpose with | .stageRead _ => true | _ => false) ||
  (e.hr.look (j.g / 8)).xacts.any (fun x =>
    x.owner == j.key && x.live && (match x.purpose with | .stageRead _ => true | _ => false))

/-- A copy whose units have all been read is written to its region; a unit that a remote block answered is not,
and reads of it take the FILL (R182, R290; log 26). -/
def copyStep (v : Env) (e : Eng) (k : Nat × Nat) : Eng :=
  match e.jobAt k with
  | none => e
  | some j =>
    if j.stage != .copying || j.status.isSome || copyReadsOut e j then e
    else
      let us := regionUnits j
      let lost := us.filter (fun x => j.copy.remote.contains x.2)
      let kept := us.filter (fun x => !j.copy.remote.contains x.2)
      let pv := (kept.filter (fun x => decide (2 ^ 52 ≤ x.1))).map (fun x => x.1 - 2 ^ 52)
      let x := if pv.isEmpty then (e, .ok) else e.touch v k .privet pv
      match x.2 with
      | .ok =>
        (kept.foldl (copyOut v k j) x.1).onJob k (fun j =>
          { j with stage := .writing, copy := ⟨[], [], []⟩, copyRemote := lost.map (fun x => x.1) })
      | _ => x.1.arise v k .privetDenied

/-- A job as far as it can go without a command: its staging copy, and a built-in program, of which there are at
most six parts. -/
def Eng.advance (v : Env) (e : Eng) (k : Nat × Nat) : Eng :=
  advanceN 6 v ((copyStep v e k).pump v (k.1 / 8)) k

/-- Every running built-in program and copy of a hedgerow as far as it can go. -/
def Eng.advanceHr (v : Env) (e : Eng) (h : Nat) : Eng :=
  (e.jobsOf h).foldl (fun e k => e.advance v k) e

/-- Every transfer of a hedgerow issued that may be, and what follows from reads that needed no fabric. -/
def Eng.drive (v : Env) (e : Eng) (h : Nat) : Eng := (e.pump v h).advanceHr v h

/-- Every transfer of every path issued that may be. -/
def Eng.pumpAll (v : Env) (e : Eng) : Eng :=
  (((upTo v.cfg.hedgerows).foldl (fun e h => e.drive v h) e).pumpCfp v).pumpIwp v

end Sys2Proof.Machine
end

