-- ==== Sys2Proof/Machine/Latches.lean ====
section
/-! DEFINITION. The operand reuse latches of a pleacher: which register rows an instruction reads, and what the
reads leave in the latches (R119, R120, R155). A hit serves what the register holds, so no result depends on
them. -/

namespace Sys2Proof.Machine

open Sys2Proof

/-! ### Rows of images -/

/-- The 512-byte image rows that hold bits of element (i, j). -/
def elemRows (s : Shape) (i j : Nat) : List Nat := unitsOf ((elemBytes s i j).map (fun o => o / 512 * 64))

/-- The byte of an image that holds bit `q` of element (i, j) (R111). -/
def bitByte (s : Shape) (i j q : Nat) : Nat :=
  match s.layout with
  | .natural => i * s.pitch + j * (s.w / 8) + q / 8
  | .packed => i * s.pitch + j / 2
  | .plane => q * s.rows * s.pitch + i * s.pitch + j / 8

/-- The pairs 64 * row + source row of an element that is computed from the whole of source element `x`. -/
def wholePairs (d a : Shape) (r c : Nat) (x : Nat × Nat) : List Nat :=
  (elemRows d r c).flatMap (fun k => (elemRows a x.1 x.2).map (fun m => k + m / 64))

/-- The pairs 64 * row + source row of an element each of whose bits is one bit of source element `x`, from bit
`lo` on (R147, R155). -/
def bitPairs (d a : Shape) (lo r c : Nat) (x : Nat × Nat) : List Nat :=
  ((upTo d.w).filter (fun q => decide (lo + q < a.w))).map (fun q =>
    bitByte d r c q / 512 * 64 + bitByte a x.1 x.2 (lo + q) / 512)

/-- For every row of an image, the source image rows that hold an element or a bit placed in it: the pairs
64 * row + source row, rising (R155). `src` names the source element of an element of `d`. -/
def feeds (d : Shape) (pairs : Nat → Nat → Nat × Nat → List Nat) (src : Nat → Nat → Option (Nat × Nat)) : List Nat :=
  ((upTo d.rows).flatMap (fun r => (upTo d.cols).flatMap (fun c =>
    match src r c with
    | none => []
    | some x => pairs r c x))).foldl addUnit []

/-- The source rows that feed destination register row `k`, rising. -/
def feedsRow (fs : List Nat) (k : Nat) : List Nat := (fs.filter (fun x => x / 64 == k)).map (fun x => x % 64)

/-! ### Register rows read (R155) -/

/-- Row by row of the destination, the rows of `t` that feed it. -/
def readsBy (t : Nat) (fs : List Nat) : List (Nat × Nat) := fs.map (fun x => (t, x % 64))

/-- The rows a TCAT reads: for every destination row its rows of TA, then its rows of TB (R121, R155). -/
def tcatReads (i : Insn) : List (Nat × Nat) :=
  let a := shapeOf (w2Of i)
  let b := shapeOf (w1Of i)
  let d := shapeOf (w3Of i)
  let row := subOf i 0 1 == 1
  let fa := feeds d (bitPairs d a 0) (fun r c =>
    if row then (if r < a.rows then some (r, c) else none) else (if c < a.cols then some (r, c) else none))
  let fb := feeds d (bitPairs d b 0) (fun r c =>
    if row then (if r < a.rows then none else some (r - a.rows, c))
    else (if c < a.cols then none else some (r, c - a.cols)))
  (upTo d.foot).flatMap (fun k => (feedsRow fa k).map (fun m => (taOf i, m)) ++ (feedsRow fb k).map (fun m => (tbOf i, m)))

/-- The rows a TGATH reads: for every destination row its index rows, then its source rows (R155). With DIM = 0 the
source row of destination row k is row k of TA (log 73). -/
def tgathReads (p : Pleacher) (i : Insn) : List (Nat × Nat) :=
  let a := shapeOf (w2Of i)
  let b := shapeOf (w1Of i)
  let d := shapeOf (w3Of i)
  let idx (r c : Nat) : Option (Nat × Nat) := if subOf i 0 1 == 0 then some (if b.rows == 1 then 0 else r, c) else some (0, r)
  let fb := feeds d (wholePairs d b) idx
  let fa := feeds d (bitPairs d a 0) (fun r c =>
    let x := indexAt b (p.tileByte (tbOf i)) 0 r
    if 0 ≤ x ∧ x < a.rows then some (x.toNat, c) else none)
  (upTo d.foot).flatMap (fun k =>
    if subOf i 0 1 == 0 then (feedsRow fb k).map (fun m => (tbOf i, m)) ++ [(taOf i, k)]
    else ((feedsRow fb k).filter (fun m => k == 0 || !(feedsRow fb (k - 1)).contains m)).map (fun m => (tbOf i, m)) ++
      (feedsRow fa k).map (fun m => (taOf i, m)))

/-- The rows a TSCAT reads: index rows, source rows and, with MERGE = 1, the destination's own (R153, R155). -/
def tscatRows (p : Pleacher) (i : Insn) : List (Nat × Nat) :=
  let a := shapeOf (w2Of i)
  let b := shapeOf (w1Of i)
  let d := shapeOf (w3Of i)
  let own (k : Nat) : List (Nat × Nat) := if subOf i 1 1 == 1 then [(tdOf i, k)] else []
  if subOf i 0 1 == 0 then
    let fb := feeds a (wholePairs a b) (fun r c => some (if b.rows == 1 then 0 else r, c))
    (upTo d.foot).flatMap (fun k => (feedsRow fb k).map (fun m => (tbOf i, m)) ++ [(taOf i, k)] ++ own k)
  else
    let fa := feeds a (fun r c x =>
      let t := indexAt b (p.tileByte (tbOf i)) 0 r
      if 0 ≤ t ∧ t < d.rows then bitPairs d a 0 t.toNat c x else []) (fun r c => some (r, c))
    (upTo b.foot).map (fun k => (tbOf i, k)) ++
      (upTo d.foot).flatMap (fun k => (feedsRow fa k).map (fun m => (taOf i, m)) ++ own k)

/-- The tile register rows an instruction reads, in the order of its steps; within a step index rows come first, then
source rows in rising order, then the destination's own (log 73). A step's source rows are those that hold an element,
or where no element is converted a bit, placed in its row; the scale image of a TST adds none (R155). A step that
takes nothing from its source reads no row (log 73). The shadow has no register number, and its rows are never
latched. -/
def rowReads (p : Pleacher) (i : Insn) : List (Nat × Nat) :=
  let a := shapeOf (w2Of i)
  let d := shapeOf (w3Of i)
  let same (r c : Nat) : Option (Nat × Nat) := some (r, c)
  let turned (r c : Nat) : Option (Nat × Nat) := some (c, r)
  let moved (r c : Nat) (x : Nat × Nat) : List Nat :=
    if converting i then wholePairs d a r c x else bitPairs d a 0 r c x
  match opOf i with
  | 0x02 =>
    if bitOn (subOf i 3 1) 0 then
      let m := midShape d a
      readsBy (taOf i) (feeds m (bitPairs m a 0) turned)
    else readsBy (taOf i) (feeds d moved same)
  | 0x03 => (upTo d.foot).map (fun k => (taOf i, k))
  | 0x04 => readsBy (taOf i) (feeds d (bitPairs d a 0) turned)
  | 0x05 => tgathReads p i
  | 0x06 => tscatRows p i
  | 0x07 => readsBy (taOf i) (feeds d (bitPairs d a (subOf i 0 5)) same)
  | 0x08 => (upTo d.foot).map (fun k => (taOf i, k))
  | 0x09 =>
    if subOf i 0 1 == 0 then []
    else
      let ro := signed 9 (bits i.toNat 41 9)
      let co := signed 9 (bits i.toNat 32 9)
      readsBy (taOf i) (feeds d (bitPairs d a 0) (fun r c =>
        let x : Int := (r : Int) - ro
        let y : Int := (c : Int) - co
        if 0 ≤ x ∧ x < a.rows ∧ 0 ≤ y ∧ y < a.cols then some (x.toNat, y.toNat) else none))
  | 0x0A => tcatReads i
  | 0x0B => if subOf i 0 3 == 0 then readsBy (taOf i) (feeds d moved same) else []
  | _ => []

/-! ### The latches (R119, R120) -/

/-- The latches after the reads of an instruction; a read that returns zeros under R115 neither hits nor fills. -/
def Pleacher.latchesAfter (p : Pleacher) (i : Insn) : Latches :=
  (rowReads p i).foldl (fun l x =>
    let h := p.ctx.hdr.look x.1
    if h.inuse && decide (x.2 < h.foot)
    then l.read x.1 x.2 ((upTo 512).map (fun o => p.tileByte x.1 (512 * x.2 + o))) else l) p.latches

end Sys2Proof.Machine
end

