-- ==== Sys2Proof/Machine/Sequencer.lean ====
section
/-! DEFINITION. The sequencer: the instruction at PC, the fetch buffer, faults at issue, the scoreboard,
memory hazards, the issue of a row instruction (R115, R122-R128, R130, R140-R144, R157-R159). -/

namespace Sys2Proof.Machine

open Sys2Proof

/-- A listed opcode (R132). -/
def opListed (op : Nat) : Bool := decide (op ≤ 0x0B) || (decide (0x10 ≤ op) && decide (op ≤ 0x14))

/-- The opcode an instruction executes as: an unlisted one is END (R132). -/
def opRun (i : Insn) : Nat := if opListed (opOf i) then opOf i else 0

/-- The row of the hedge bank that holds PC. -/
def rowOf (pc : BitVec 20) : Nat := pc.toNat / 512 * 512

/-- The instruction at PC, if its row is buffered (R127, R128). -/
def Pleacher.insn (p : Pleacher) : Option Insn :=
  (p.buf.find? (fun r => r.base == rowOf p.ctx.pc)).map (fun r =>
    BitVec.ofNat 128 (leNat ((upTo 16).map (fun i => byteAt r.bytes (p.ctx.pc.toNat % 512 / 16 * 16 + i)))))

/-- The job and the instruction that pleacher `g` may issue next: a planner program runs, no fault has
been found, nothing is waited for (R126, R130). -/
def atIssue (e : Eng) (g : Nat) : Option (Job × Insn) :=
  let p := e.pl.look g
  match p.phase, p.wait, e.curJob g, p.insn with
  | .running, .none, some j, some i =>
    if j.desc.prog && j.st == .running && j.status.isNone then some (j, i) else none
  | _, _, _, _ => none

/-- The next instruction if it is the one a command names. -/
def issuing (e : Eng) (g : Nat) (p : Insn → Bool) : Option (Job × Insn) :=
  match atIssue e g with
  | some (j, i) => if p i then some (j, i) else none
  | none => none

/-- The context changed. -/
def Eng.onCtx (e : Eng) (g : Nat) (f : Ctx → Ctx) : Eng := e.onPl g (fun p => { p with ctx := f p.ctx })

/-- The first instruction of the newer buffered row starts the fetch of the row after it (R128). -/
def refill (p : Pleacher) : Pleacher :=
  match p.buf, p.fetch with
  | [_, b], [] => if b.base == rowOf p.ctx.pc then { p with buf := [b], fetch := [(b.base + 512) % 2 ^ 20] } else p
  | _, _ => p

/-- PC after an instruction that does not branch (R127). -/
def Eng.nextPc (e : Eng) (g : Nat) : Eng :=
  e.onPl g (fun p => let p := refill p; { p with ctx := { p.ctx with pc := p.ctx.pc + 16 } })

/-- The fetch of a program row and the one after it (R128). -/
def fetchFrom (pc : BitVec 20) : List Nat := [rowOf pc, (rowOf pc + 512) % 2 ^ 20]

/-- A taken branch (R128, R135, R136). -/
def Eng.branch (e : Eng) (g : Nat) (off : W32) : Eng :=
  e.onPl g (fun p =>
    let p := refill p
    let pc := p.ctx.pc + BitVec.ofInt 20 (16 * off.toInt)
    let p := { p with ctx := { p.ctx with pc := pc } }
    if p.buf.any (fun r => r.base == rowOf pc) then p else { p with buf := [], fetch := fetchFrom pc })

/-- A fault at issue: earlier instructions run to their ends, none follows, and the job then ends with
the status (R126, R158). -/
def Eng.faultAt (v : Env) (e : Eng) (g : Nat) (j : Job) (st : Status) : Eng :=
  let idx := BitVec.ofNat 16 ((e.pl.look g).ctx.pc.toNat / 16)
  let e := e.newCycle
  let e := e.onJob j.key (fun j => { j with status := some st, arose := e.cycle, faultIdx := idx })
  (e.onPl g (fun p => { p with wait := .faulted })).tryEnd v j.key

/-- A row instruction in flight that has row reads to issue: a permutation that waits for its route, or a load with
TRANS whose data have not all come, so that its second phase has read nothing (R130, R159). -/
def holdsRows (e : Eng) (j : Job) (f : Flight) : Bool :=
  match f.deliver with
  | .perm _ _ _ _ => true
  | .load _ _ key => f.shadow && keyPending e j key
  | _ => false

/-- Whether the registers of a new row instruction are free and the ones before it have issued their row reads (R123,
R124, R130). -/
def scoreboard (e : Eng) (p : Pleacher) (j : Job) (reads writes : List Nat) (shadow : Bool) : Bool :=
  !p.flights.any (fun f =>
    f.writes.any (fun t => reads.contains t || writes.contains t) || (shadow && f.shadow) || holdsRows e j f) &&
  !j.xq.any (fun r => !r.write)

/-- Size of the space a code names. -/
def spaceSize (space : Nat) : Nat :=
  match space with | 1 => 2 ^ 20 | 2 => 2 ^ 19 | 3 => 2 ^ 19 | _ => 2 ^ 52

/-- An earlier store of the job whose writes to an overlapping range have not taken place (R157). -/
def storePending (e : Eng) (j : Job) (space a n : Nat) : Bool :=
  let p := e.pl.look j.g
  p.flights.any (fun f =>
    !f.load && f.space == space && wrapMeets (spaceSize space) f.lo (f.hi - f.lo) a n) ||
  (space == 0 &&
    (j.xq.any (fun r => r.write && wrapMeets (2 ^ 52) r.addr r.len a n) ||
     (e.hr.look (j.g / 8)).xacts.any (fun x =>
       x.write && x.owner == j.key && !x.timedOut && (x.purpose == .dest) &&
       wrapMeets (2 ^ 52) x.orig x.len a n)))

/-- A memory write of the job that has not taken place (R138, R139). -/
def writesPending (e : Eng) (j : Job) : Bool :=
  let p := e.pl.look j.g
  p.flights.any (fun f => match f.deliver with | .store _ _ _ => true | _ => false) ||
  j.xq.any (fun r => r.write) || writesOut e j.key

/-- The operand address of a TLD or TST: reduced, and aligned to a row in the leaf store and to 64
elsewhere (R140). -/
def operandAt (c : Ctx) (i : Insn) : Nat :=
  let a := c.a.look (axOf i)
  let a := if bitOn (subOf i 2 1) 0 then a else a + (w1Of i).signExtend 64
  let space := subOf i 0 2
  let r := reduceAt space a.toNat
  if space == 2 then r / 512 * 512 else r / 64 * 64

/-- The context after a TLD or TST: PC, the post-increment and the converting count (R72, R140). -/
def moveCtx (i : Insn) (c : Ctx) : Ctx :=
  let c := if bitOn (subOf i 2 1) 0
    then { c with a := c.a.put (axOf i) (c.a.look (axOf i) + (w1Of i).signExtend 64) } else c
  { c with n := if converting i then c.n + 1 else c.n }

/-- A row instruction joins the in-flight instructions, numbered by the ready counter, as the newest of them; its
reads pass the reuse latches, and PC advances (R119, R130, R159). -/
def Eng.launch (e : Eng) (g : Nat) (i : Insn) (f : Flight) (after : Ctx → Ctx) : Eng :=
  let f := { f with id := e.stamp, ckpt := (e.pl.look g).ctx }
  let e := { e with stamp := e.stamp + 1 }
  ((e.onPl g (fun p =>
    { p with flights := p.flights ++ [f], newest := f.id, latches := p.latchesAfter i })).onCtx g after).nextPc g

/-- A flight that delivers a register image. -/
def regFlight (reads : List Nat) (t : Nat) (shape : W32) (img : List Byte) (oob : Bool) : Flight :=
  ⟨0, reads, [t], reads.contains t, 9, 0, 0, false, .reg t shape img, [], oob, Ctx.reset⟩

/-- The common issue of a register-to-register row instruction: shapes first, then the scoreboard. The shape
check of an instruction that the scoreboard or a memory hazard would hold is made when it is presented, not after
the hold (R124, R126, R158; log 69). -/
def issueReg (v : Env) (e : Eng) (g : Nat) (sel : Insn → Bool) (reads : Insn → List Nat)
    (img : Job → Pleacher → Insn → List Byte) (oob : Pleacher → Insn → Bool) (after : Insn → Ctx → Ctx) : Eng :=
  match issuing e g sel with
  | none => e
  | some (j, i) =>
    let p := e.pl.look g
    if shapeFault i then e.faultAt v g j .shapeFault
    else if !scoreboard e p j (reads i) [tdOf i] ((reads i).contains (tdOf i)) then e
    else e.launch g i (regFlight (reads i) (tdOf i) (w3Of i) (img j p i) (oob p i)) (after i)

/-- A fill value: the register an instruction names as AX. -/
def fillOf (p : Pleacher) (i : Insn) : Nat := (p.ctx.a.look (axOf i)).toNat

/-- The 64-byte units of an operand, each by its first byte; of a unit that a staged box's bound cuts every byte
(R180). -/
def operandSpots (j : Job) (g space a n : Nat) : List Spot :=
  (upTo (ceilDiv n 64)).flatMap (fun k =>
    let s := operandSpot j g space a (64 * k)
    let box (s : Spot) : Option StagedBox := j.stagedAt s.1 s.2.1
    if j.boxes.isEmpty || (upTo 64).all (fun o => box (operandSpot j g space a (64 * k + o)) == box s) then [s]
    else (upTo 64).map (fun o => operandSpot j g space a (64 * k + o)))

/-- A list of reads meets a staged address (R182). -/
def meetsStaged (j : Job) (ss : List Spot) : Bool := ss.any (fun s => (j.stagedAt s.1 s.2.1).isSome)

/-- The copy a staged read needs is not complete (R182). -/
def copyAwaited (j : Job) (ss : List Spot) : Bool := j.staged && j.stage != .done && meetsStaged j ss

/-- Byte `o` of an operand in the memories of the block, as it is now. -/
def operandNow (e : Eng) (j : Job) (g space a o : Nat) : Byte := spotNow e j (operandSpot j g space a o)

/-- The place under which the host bytes of in-flight instruction `id` are kept. -/
def keyOf (id : Nat) : Nat := id * 2 ^ 53

end Sys2Proof.Machine
end

