-- ==== Sys2Proof/Machine/TileInsns.lean ====
section
/-! DEFINITION. The row instructions of a planner program (R143-R153), the route builder's end (R97) and
retirement (R122, R123). Operands are read at issue and results appear at retirement (log 12). -/

namespace Sys2Proof.Machine

open Sys2Proof

/-- No change of the context but PC. -/
def sameCtx (_ : Insn) (c : Ctx) : Ctx := c

/-- An instruction drops no element. -/
def noOob (_ : Pleacher) (_ : Insn) : Bool := false

/-! ### Loads and stores -/

/-- TLD (R140, R143, R144). Its privet check is made, like the shape check, when it is presented, not after a hold of
the scoreboard, of a memory hazard or of a staging copy (R158, R200; log 69). -/
def tldI (v : Env) (e : Eng) (g : Nat) : Eng :=
  match issuing e g (fun i => opRun i == 0x01) with
  | none => e
  | some (j, i) =>
    let p := e.pl.look g
    let space := subOf i 0 2
    let a := operandAt p.ctx i
    let n := operandLen space (shapeOf (w2Of i))
    let trans := bitOn (subOf i 3 1) 0
    if shapeFault i then e.faultAt v g j .shapeFault
    else if space == 3 && !pvAdmits v e j.secure then e.faultAt v g j .privetDenied
    else if !scoreboard e p j [] [tdOf i] trans || storePending e j space a n ||
        copyAwaited j (operandSpots j g space a n) then e
    else
      let ss := operandSpots j g space a n
      let x := e.touchAll v j.key (blockOf j ss)
      match x.2 with
      | .denied => x.1.arise v j.key .privetDenied
      | .wait => x.1
      | .ok =>
        let e := x.1
        let key := keyOf e.stamp
        let f : Flight := ⟨0, [], [tdOf i], trans, space, a, a + n, true, .load i a key, [], false, Ctx.reset⟩
        let get := operandNow e j g space a
        let lost (_ : Nat) : Bool := false
        if ss.all (fun s => (j.placeOf s).1 != .host) then
          e.launch g i
            { f with
              deliver := .reg (tdOf i) (w3Of i) (tldImage i j.desc.seed p.ctx.n.toNat j.desc.src.fill get lost)
              mid := if trans then tldMid i j.desc.seed p.ctx.n.toNat j.desc.src.fill get lost else [] } (moveCtx i)
        else
          let keep (m : Mem) : Mem :=
            if (blockOf j ss).isEmpty then m else keepNow e j key ((upTo n).map (operandSpot j g space a)) m
          (((e.launch g i f (moveCtx i)).onJob j.key (fun j => { j with rd := keep j.rd })).enqueue j.key
            (spotReads v j ss key)).pump v (g / 8)

/-- TST (R140, R142, R143, R144). Its privet check is made when it is presented, as TLD's is (log 69). -/
def tstI (v : Env) (e : Eng) (g : Nat) : Eng :=
  match issuing e g (fun i => opRun i == 0x02) with
  | none => e
  | some (j, i) =>
    let p := e.pl.look g
    let space := subOf i 0 2
    let a := operandAt p.ctx i
    let n := operandLen space (shapeOf (w3Of i))
    let trans := bitOn (subOf i 3 1) 0
    if shapeFault i then e.faultAt v g j .shapeFault
    else if space == 3 && !pvAdmits v e j.secure then e.faultAt v g j .privetDenied
    else if !scoreboard e p j [taOf i] [] trans || storePending e j space a n ||
        (j.staged && j.stage != .done) then e
    else
      let src := p.tileByte (taOf i)
      e.launch g i
        ⟨0, [taOf i], [], trans, space, a, a + n, false,
          .store space a (tstImage i j.desc.seed p.ctx.n.toNat src), if trans then tstMid i src else [], false, Ctx.reset⟩
        (moveCtx i)

/-! ### Routes -/

/-- The binding that serves a TPERM's selector: a MAP selector's own, or the one a CACHED selector names
(R101, R102). -/
def bindingFor (c : Ctx) (sel : W64) : Option Binding :=
  if selClass sel == 7 then some (bindingOf sel) else c.binds.find? (fun b => b.id == selId sel)

/-- The context after a TPERM: a MAP selector is on the binding list (R101). -/
def permCtx (sel : W64) (c : Ctx) : Ctx :=
  if selClass sel == 7 then { c with binds := bindRoute c.binds (bindingOf sel) } else c

/-- TPERM with a generator route (R92, R146). -/
def tpermGen (e : Eng) (g : Nat) (p : Pleacher) (i : Insn) (sel : W64) : Eng :=
  e.launch g i (regFlight [taOf i] (tdOf i) (w3Of i) (tpermImage i (genRow sel) (p.tileByte (taOf i))) false)
    (fun c => c)

/-- TPERM with a route found in the cache (R100, R102). -/
def tpermHit (e : Eng) (g : Nat) (p : Pleacher) (i : Insn) (sel : W64) (r : Route) : Eng :=
  let e := e.onPl g (fun p => { p with routes := cacheTouch p.routes r })
  let e := e.onHrCnt (g / 8) (fun c => { c with rcHit := satInc c.rcHit 1 })
  e.launch g i
    (regFlight [taOf i] (tdOf i) (w3Of i)
      (tpermImage i (fun _ => passRow sel r.settings) (p.tileByte (taOf i))) false)
    (permCtx sel)

/-- TPERM with a route to be built: the builder reads the map, staged bytes of it from their copy, and the
instruction waits for the route with its source rows (R96, R97, R98, R102, R180). -/
def tpermMiss (v : Env) (e : Eng) (g : Nat) (j : Job) (p : Pleacher) (i : Insn) (sel : W64) (b : Binding) : Eng :=
  let space := if b.space == 1 then 2 else 1
  let a := mapStart b
  let n := 2 * 2 ^ unitBits b.grain
  let ss := mapSpots j b
  if p.build.isSome || storePending e j space a n || copyAwaited j ss then e
  else
    let x := e.touchAll v j.key (blockOf j ss)
    match x.2 with
    | .ok =>
      let rows := (upTo (512 * (shapeOf (w3Of i)).foot)).map (p.tileByte (taOf i))
      ((startBuild v x.1 j b (keyOf x.1.stamp)).launch g i
        ⟨0, [taOf i], [tdOf i], taOf i == tdOf i, space, a, a + n, true, .perm i sel b.id rows, [], false, Ctx.reset⟩
        (permCtx sel)).pump v (g / 8)
    | .denied => x.1.arise v j.key .privetDenied
    | .wait => x.1

/-- TPERM (R146). Its route is decoded once the scoreboard lets it issue, and only then can the decode fault (R103,
R124, R158). -/
def tpermI (v : Env) (e : Eng) (g : Nat) : Eng :=
  match issuing e g (fun i => opRun i == 0x03) with
  | none => e
  | some (j, i) =>
    let p := e.pl.look g
    let sel := p.ctx.a.look (axOf i)
    if shapeFault i then e.faultAt v g j .shapeFault
    else if !scoreboard e p j [taOf i] [tdOf i] (taOf i == tdOf i) then e
    else
      match selMapped sel, bindingFor p.ctx sel with
      | true, none => e.faultAt v g j .routeFault
      | false, _ => tpermGen e g p i sel
      | true, some b =>
        match cacheFind (cacheSets v.cfg) p.routes (selId sel) with
        | some r => tpermHit e g p i sel r
        | none => tpermMiss v e g j p i sel b

/-- An instruction that waits for the route `b` gets it: its rows pass the crossbar (R97, R146). -/
def servePerm (b : Build) (f : Flight) : Flight :=
  match f.deliver with
  | .perm i sel id rows =>
    if id == b.id then
      let img := tpermImage i (fun _ => passRow sel (routeSettings b.grain b.src)) (byteAt rows)
      { f with deliver := .reg (tdOf i) (w3Of i) img }
    else f
  | _ => f

/-- The route builder ends: the route is installed and serves what waits for it (R97, R100). A build whose map
bytes are still to come does not end. -/
def routeBuilt (v : Env) (e : Eng) (g : Nat) : Eng :=
  match (e.pl.look g).build, e.curJob g with
  | some b, some j =>
    match buildReady e j b with
    | none => e
    | some (e, b) =>
      let e := e.onPl g (fun p =>
        { p with build := none, routes := cacheInstall (cacheSets v.cfg) p.routes b, flights := p.flights.map (servePerm b) })
      if j.bphase == .route && !j.desc.prog then
        (e.onJob j.key (fun j => { j with bphase := .start, units := some b.src })).advance v j.key
      else e
  | _, _ => e

/-! ### Register operations -/

/-- TXP (R146). -/
def txpI (v : Env) (e : Eng) (g : Nat) : Eng :=
  issueReg v e g (fun i => opRun i == 0x04) (fun i => [taOf i])
    (fun _ p i => txpImage i (p.tileByte (taOf i))) noOob sameCtx

/-- TGATH (R152). -/
def tgathI (v : Env) (e : Eng) (g : Nat) : Eng :=
  issueReg v e g (fun i => opRun i == 0x05) (fun i => [taOf i, tbOf i])
    (fun _ p i => tgathImage i (fillOf p i) (p.tileByte (taOf i)) (p.tileByte (tbOf i))) noOob sameCtx

/-- The registers a TSCAT reads: TD too with MERGE = 1 (R153). -/
def tscatReads (i : Insn) : List Nat :=
  if subOf i 1 1 == 1 then [taOf i, tbOf i, tdOf i] else [taOf i, tbOf i]

/-- TSCAT (R153). -/
def tscatI (v : Env) (e : Eng) (g : Nat) : Eng :=
  issueReg v e g (fun i => opRun i == 0x06) tscatReads
    (fun _ p i =>
      tscatImage i (fillOf p i) (p.tileByte (taOf i)) (p.tileByte (tbOf i)) (p.tileByte (tdOf i)))
    (fun p i => tscatOob i (p.tileByte (tbOf i))) sameCtx

/-- TPLANE (R147). -/
def tplaneI (v : Env) (e : Eng) (g : Nat) : Eng :=
  issueReg v e g (fun i => opRun i == 0x07) (fun i => [taOf i])
    (fun _ p i => tplaneImage i (p.tileByte (taOf i))) noOob sameCtx

/-- TSWZ (R148). -/
def tswzI (v : Env) (e : Eng) (g : Nat) : Eng :=
  issueReg v e g (fun i => opRun i == 0x08) (fun i => [taOf i])
    (fun _ p i => tswzImage i (p.tileByte (taOf i))) noOob sameCtx

/-- TFILL, fill form (R149). -/
def tfillI (v : Env) (e : Eng) (g : Nat) : Eng :=
  issueReg v e g (fun i => opRun i == 0x09 && subOf i 0 1 == 0) (fun _ => [])
    (fun _ p i => tfillImage i (fillOf p i)) noOob sameCtx

/-- TFILL, pad form (R149). -/
def tpadI (v : Env) (e : Eng) (g : Nat) : Eng :=
  issueReg v e g (fun i => opRun i == 0x09 && subOf i 0 1 == 1) (fun i => [taOf i])
    (fun _ p i => tpadImage i (fillOf p i) (p.tileByte (taOf i))) noOob sameCtx

/-- TCAT (R150). -/
def tcatI (v : Env) (e : Eng) (g : Nat) : Eng :=
  issueReg v e g (fun i => opRun i == 0x0A) (fun i => [taOf i, tbOf i])
    (fun _ p i => tcatImage i (p.tileByte (taOf i)) (p.tileByte (tbOf i))) noOob sameCtx

/-- Copy-form TMOV (R151). -/
def tmovCopyI (v : Env) (e : Eng) (g : Nat) : Eng :=
  issueReg v e g (fun i => opRun i == 0x0B && subOf i 0 3 == 0) (fun i => [taOf i])
    (fun j p i => tmovImage i j.desc.seed p.ctx.n.toNat (p.tileByte (taOf i))) noOob
    (fun i c => { c with n := if converting i then c.n + 1 else c.n })

/-! ### Retirement (R122, R123) -/

/-- The flight leaves the scoreboard. -/
def Eng.unflight (e : Eng) (g id : Nat) : Eng :=
  e.onPl g (fun p => { p with flights := p.flights.filter (fun f => f.id != id) })

/-- A load's image from the data that arrived, and the data given up (R143, R144). -/
def retireLoad (e : Eng) (g : Nat) (j : Job) (f : Flight) (key : Nat) : Eng :=
  (e.onPl g (fun p => p.deliver j f)).onJob j.key (fun j => { j.giveUp key with poisoned := j.poisoned || f.lost j })

/-- A store's bytes reach the memory, or the mover for host memory (R141, R142). `refusals` counts the writes at
the other port of the memory that were refused meanwhile (R188, R196, log 14). -/
def retireStore (v : Env) (e : Eng) (g : Nat) (j : Job) (f : Flight) (space a : Nat) (img : List Byte)
    (refusals : Nat) : Eng :=
  let i := instOf g space
  let mid (e : Eng) : Eng := e.onPl g (fun p => p.deliver j f)
  match i with
  | .host =>
    let bs := (upTo img.length).map (fun k => ((a + k) % 2 ^ 52, byteAt img k))
    (((mid e).unflight g f.id).enqueue j.key (writeReqs v bs .dest true)).pump v (g / 8)
  | _ =>
    let x := e.touch v j.key i ((upTo img.length).map (fun k => reduceAt space (a + k)))
    match x.2 with
    | .denied => (x.1.unflight g f.id).arise v j.key .privetDenied
    | .wait => x.1
    | .ok =>
      let e := { (mid x.1) with mem := x.1.mem.putBytes i a img }
      let e := if space == 3 then e.spoilSlots v a img.length else e
      (e.refuse i refusals).unflight g f.id

/-- A row instruction retires (R122). -/
def retireI (v : Env) (e : Eng) (g id refusals : Nat) : Eng :=
  match e.curJob g, (e.pl.look g).flights.find? (fun f => f.id == id) with
  | some j, some f =>
    let e := e.onJob j.key (fun j => { j with oob := j.oob || f.oob })
    let e :=
      match f.deliver with
      | .reg _ _ _ => (e.onPl g (fun p => p.deliver j f)).unflight g id
      | .load _ _ key => if !keyPending e j key then (retireLoad e g j f key).unflight g id else e
      | .perm _ _ _ _ => e
      | .store space a img => retireStore v e g j f space a img refusals
    e.tryEnd v j.key
  | _, _ => e

end Sys2Proof.Machine
end

