-- ==== Sys2Proof/Machine/Scalars.lean ====
section
/-! DEFINITION. The scalar instructions of a planner program, and the fetch of program rows (R127, R128,
R134-R139, R282). -/

namespace Sys2Proof.Machine

open Sys2Proof

/-! ### Phase values -/

/-- SRC of a domain; 6 and 7 are taken as 0 (R269). -/
def domSrc (v : Env) (d : Nat) : Nat :=
  let x := bits (v.regs.pd.look d).cfg.toNat 24 3
  if x < 6 then x else 0

/-- D of a domain; 0 is taken as 256 (R269). -/
def domDiv (v : Env) (d : Nat) : Nat :=
  let x := bits (v.regs.pd.look d).cfg.toNat 16 8
  if x == 0 then 256 else x

/-- The phase of a domain from its source's captured value (R270). -/
def phaseNow (v : Env) (ph : Phases) (d : Nat) (m : Domain) : Domain :=
  match m.st with
  | .running => { m with phase := BitVec.ofNat 24 ((m.k * 2 ^ 24 + (ph.look (domSrc v d)).toNat) / domDiv v d) }
  | _ => m

/-- The captured values of a cycle and the domain phases that follow from them (R268, R270, log 5). -/
def Eng.sample (v : Env) (e : Eng) (ph : Phases) : Eng :=
  { e with phVal := ph, phWrap := 0, dom := Vector.ofFn (fun (i : Fin 16) => phaseNow v ph i.val (e.dom.look i.val)) }

/-! ### TMOV (R134) -/

/-- Header write: held until every earlier reference to the register has retired; the register's latches are
invalidated (R114, R120, R124, R134). -/
def tmovHeaderI (v : Env) (e : Eng) (g : Nat) : Eng :=
  match issuing e g (fun i => opRun i == 0x0B && subOf i 0 3 == 1) with
  | none => e
  | some (j, i) =>
    let t := tdOf i
    let use := subOf i 3 1 == 1
    if shapeFault i then e.faultAt v g j .shapeFault
    else if (e.pl.look g).flights.any (fun f => f.reads.contains t || f.writes.contains t) then e
    else
      ((e.onCtx g (fun c =>
        let old := c.hdr.look t
        let new : Header := if use then
            { headerOf (w3Of i) with foot := min old.foot (shapeOf (w3Of i)).foot } else ⟨0, false, 0⟩
        { c with hdr := c.hdr.put t new })).onPl g (fun p => { p with latches := p.latches.drop t })).nextPc g

/-- A load. -/
def tmovALoadI (e : Eng) (g : Nat) : Eng :=
  match issuing e g (fun i => opRun i == 0x0B && subOf i 0 3 == 2) with
  | none => e
  | some (_, i) => (e.onCtx g (fun c => { c with a := c.a.put (axOf i) (immOf i) })).nextPc g

/-- A add. -/
def tmovAAddI (e : Eng) (g : Nat) : Eng :=
  match issuing e g (fun i => opRun i == 0x0B && subOf i 0 3 == 3) with
  | none => e
  | some (_, i) =>
    (e.onCtx g (fun c => { c with a := c.a.put (axOf i) (c.a.look (subOf i 4 4) + immOf i) })).nextPc g

/-- C load. -/
def tmovCLoadI (e : Eng) (g : Nat) : Eng :=
  match issuing e g (fun i => opRun i == 0x0B && subOf i 0 3 == 4) with
  | none => e
  | some (_, i) => (e.onCtx g (fun c => { c with c := c.c.put (subOf i 9 3) (w1Of i) })).nextPc g

/-- No operation. -/
def tmovNopI (e : Eng) (g : Nat) : Eng :=
  match issuing e g (fun i => opRun i == 0x0B && decide (5 ≤ subOf i 0 3)) with
  | none => e
  | some _ => e.nextPc g

/-! ### PWAIT, LOOP, BR (R135-R137) -/

/-- The comparator slice of a hedgerow runs: a PWAIT waits at issue until it ends (R330). -/
def comparatorTaken (e : Eng) (h : Nat) : Bool :=
  (e.hr.look h).testRun ||
  (match (e.hr.look h).turn with
   | some t => t.tgt.code == 9 && t.st != .waiting
   | none => false)

/-- A PWAIT need not wait: phase dispatch is not in effect, the domain is not enabled, or its phase has
reached the target (R137, R282). -/
def pwaitMet (v : Env) (e : Eng) (d : Nat) (target : BitVec 24) : Bool :=
  !v.phaseOn || (e.dom.look d).st == .disabled || decide (target.toNat ≤ (e.dom.look d).phase.toNat)

/-- The sequencer goes on waiting with an instruction it has issued (R128). -/
def Eng.waits (e : Eng) (g : Nat) (w : PlWait) : Eng := e.onPl g (fun p => { refill p with wait := w })

/-- PWAIT (R137, R282). -/
def pwaitI (v : Env) (e : Eng) (g : Nat) : Eng :=
  match issuing e g (fun i => opRun i == 0x10) with
  | none => e
  | some (_, i) =>
    let d := subOf i 0 4
    let target := BitVec.ofNat 24 (bits i.toNat 32 24)
    if comparatorTaken e (g / 8) then e
    else if pwaitMet v e d target then e.nextPc g
    else e.waits g (.pwait d target)

/-- A waiting PWAIT whose target is reached completes (R282). -/
def pwaitDone (v : Env) (e : Eng) (g : Nat) : Eng :=
  match (e.pl.look g).wait with
  | .pwait d target =>
    if pwaitMet v e d target then (e.onPl g (fun p => { p with wait := .none })).nextPc g else e
  | _ => e

/-- LOOP (R135). -/
def loopI (e : Eng) (g : Nat) : Eng :=
  match issuing e g (fun i => opRun i == 0x11) with
  | none => e
  | some (_, i) =>
    let n := (e.pl.look g).ctx.c.look (subOf i 9 3) - 1
    let e := e.onCtx g (fun c => { c with c := c.c.put (subOf i 9 3) n })
    if n != 0 then e.branch g (w1Of i) else e.nextPc g

/-- The condition of a BR (R136). -/
def brTaken (c : Ctx) (i : Insn) : Bool :=
  match subOf i 0 2 with
  | 0 => true
  | 1 => c.c.look (subOf i 9 3) == 0
  | 2 => c.c.look (subOf i 9 3) != 0
  | _ => false

/-- BR (R136). -/
def brI (e : Eng) (g : Nat) : Eng :=
  match issuing e g (fun i => opRun i == 0x12) with
  | none => e
  | some (_, i) => if brTaken (e.pl.look g).ctx i then e.branch g (w1Of i) else e.nextPc g

/-! ### FENCE, END, SYNC (R138, R139) -/

/-- FENCE (R139). -/
def fenceI (e : Eng) (g : Nat) : Eng :=
  match issuing e g (fun i => opRun i == 0x13) with
  | none => e
  | some (j, _) => if (e.pl.look g).flights.isEmpty && !writesPending e j then e.nextPc g else e

/-- END (R139). -/
def endI (v : Env) (e : Eng) (g : Nat) : Eng :=
  match issuing e g (fun i => opRun i == 0x00) with
  | none => e
  | some (j, _) => if (e.pl.look g).flights.isEmpty && !writesPending e j then e.endJob v j.key else e

/-- The address of a SYNC's half word (R138). -/
def syncAt (c : Ctx) (i : Insn) : Nat :=
  (c.a.look (axOf i)).toNat % 2 ^ 20 / 8 * 8 + 4 * subOf i 0 1

/-- ACT of a SYNC writes: 3 is taken as 0 (R138). -/
def syncActs (i : Insn) : Bool := subOf i 1 2 == 1 || subOf i 1 2 == 2

/-- The bytes of the half word that a SYNC polls (R138). -/
def syncSpots (j : Job) (g a : Nat) : List Spot := runSpots j (.bank (g / 8)) (fun a => a % 2 ^ 20) a 4

/-- The half word that a poll of a SYNC has read: once it meets the condition the instruction completes, or, with an
action, has its write to make: a second access (R138). -/
def syncCheck (e : Eng) (g : Nat) (i : Insn) (half : W32) : Eng :=
  if half &&& w1Of i == w2Of i &&& w1Of i then
    (if syncActs i then e.waits g .acting else (e.onPl g (fun p => { p with wait := .none })).nextPc g)
  else e.waits g .sync

/-- A poll of a SYNC that has been issued: the half word is read, in place or, where it lies in a staged box, from the
copy on the host, whose bytes the job keeps under a key of their own until they have come (R138, R180). -/
def syncPoll (v : Env) (e : Eng) (g : Nat) (j : Job) (i : Insn) : Eng :=
  let ss := syncSpots j g (syncAt (e.pl.look g).ctx i)
  let x := e.touchAll v j.key (blockOf j ss)
  match x.2 with
  | .ok =>
    if ss.all (fun s => (j.placeOf s).1 != .host) then
      syncCheck x.1 g i (BitVec.ofNat 32 (leNat (ss.map (spotNow x.1 j))))
    else
      let key := keyOf x.1.stamp
      ((({ x.1 with stamp := x.1.stamp + 1 }.onJob j.key (fun j => { j with rd := keepNow x.1 j key ss j.rd })).enqueue
        j.key (spotReads v j ss key)).waits g (.polling key)).pump v (g / 8)
  | _ => x.1.waits g .sync

/-- The bytes of a poll that come from a staged copy have come; a poisoned or remote one has no value the manual gives
(log 39). -/
def syncPolled (e : Eng) (g key : Nat) (j : Job) (i : Insn) : Eng :=
  if keyPending e j key then e
  else
    let ss := syncSpots j g (syncAt (e.pl.look g).ctx i)
    let bytes := (ss.zip (upTo ss.length)).map (fun x =>
      if spotLost j key x.1 then Config.freeByte (e.free + x.2) else spotKept j key x.2 x.1)
    syncCheck ((e.onJob j.key (fun j => j.giveUp key)).draw 4) g i (BitVec.ofNat 32 (leNat bytes))

/-- The action of a SYNC: a write through the bit-set or bit-clear window of the word as it stands now, at which
the instruction completes (R138, R195). `collide`: a port-B write met the action and was refused once (R196,
log 14). -/
def syncAct (v : Env) (e : Eng) (g : Nat) (j : Job) (i : Insn) (collide : Bool) : Eng :=
  let h := g / 8
  let a := syncAt (e.pl.look g).ctx i
  let x := e.touch v j.key (.bank h) [a]
  match x.2 with
  | .ok =>
    let half := x.1.mem.word (.bank h) a
    let new := if subOf i 1 2 == 1 then aliasSet half (w3Of i) else aliasClear half (w3Of i)
    let e := { x.1 with mem := x.1.mem.putWord (.bank h) a new }
    let e := if collide then e.onHrCnt h (fun c => { c with hbCollide := satInc c.hbCollide 1 }) else e
    (e.onPl g (fun p => { p with wait := .none })).nextPc g
  | _ => x.1

/-- SYNC: issued with its first poll once every earlier write has taken place and, where it polls a staged address,
the copy is complete (R138, R182). -/
def syncI (v : Env) (e : Eng) (g : Nat) : Eng :=
  match issuing e g (fun i => opRun i == 0x14) with
  | none => e
  | some (j, i) =>
    if writesPending e j || copyAwaited j (syncSpots j g (syncAt (e.pl.look g).ctx i)) then e else syncPoll v e g j i

/-- A further poll of a waiting SYNC, the end of one whose bytes had to come, or the action of one whose condition was
met (R138). -/
def syncPollI (v : Env) (e : Eng) (g : Nat) (collide : Bool) : Eng :=
  match (e.pl.look g).wait, e.curJob g, (e.pl.look g).insn with
  | .sync, some j, some i => syncPoll v e g j i
  | .polling key, some j, some i => syncPolled e g key j i
  | .acting, some j, some i => syncAct v e g j i collide
  | _, _, _ => e

/-! ### Program fetch (R128) -/

/-- A fetched row arrives in the buffer, in place of the older one (R128). -/
def fetchReturn (v : Env) (e : Eng) (g : Nat) : Eng :=
  match (e.pl.look g).fetch, e.curJob g with
  | b :: rest, some j =>
    if (e.pl.look g).phase != .running || !j.desc.prog then e
    else
      let x := e.touch v j.key (.bank (g / 8)) ((upTo 512).map (fun k => b + k))
      match x.2 with
      | .ok =>
        let row : FRow := ⟨b, x.1.mem.bytes (.bank (g / 8)) b 512⟩
        x.1.onPl g (fun p => { p with buf := (p.buf ++ [row]).drop (p.buf.length - 1), fetch := rest })
      | _ => x.1
  | _, _ => e

end Sys2Proof.Machine
end

