-- ==== Sys2Proof/Machine/Slots.lean ====
section
/-! DEFINITION. How a job gets and leaves its pleacher: selection, start, staging, yield, save and restore
(R116, R118, R125, R129, R182, R255-R261, R375). -/

namespace Sys2Proof.Machine

open Sys2Proof

/-! ### Save records (R118, R260, R375) -/

/-- Bytes of a save record's address on the host (R260). -/
def saveAddr (v : Env) (k : Nat × Nat) : Nat :=
  let r := v.regs.hr.look (k.1 / 8)
  (base52 r.saveLo r.saveHi (2 ^ 16) + 66560 * (32 * (k.1 % 8) + k.2)) % 2 ^ 52

/-- The register rows of a record in order: (register, row) (R118). -/
def recordRows (c : Ctx) : List (Nat × Nat) :=
  (upTo 8).flatMap (fun t => if (c.hdr.look t).inuse then (upTo (c.hdr.look t).foot).map (fun k => (t, k)) else [])

/-- The tile rows of a record. -/
def recordTiles (p : Pleacher) : List Byte :=
  (recordRows p.ctx).flatMap (fun x => Mem.bytes p.tile (tileKey x.1 (512 * x.2)) 512)

/-- The sequencer row: its encoding is not given, so its bytes are free (log 9). -/
def sequencerRow (n : Nat) : List Byte := (upTo 512).map (fun i => Config.freeByte (n + i))

/-- The tile registers `m` with a record's rows written back; the shadow is cleared, and rows the record does not
hold keep what the array held (R116, R118). -/
def restoreRows (m : Mem) (c : Ctx) (img : Nat → Byte) : Mem :=
  ((recordRows c).zip (upTo (recordRows c).length)).foldl
    (fun m x => Mem.putBytes m (tileKey x.1.1 (512 * x.1.2)) ((upTo 512).map (fun i => img (512 * (1 + x.2) + i))))
    (Mem.clear m (tileKey 8 0) 8192)

/-- A context nothing is known of but its binding list, which is the saved one (R375, log 10). -/
def freeCtx (n : Nat) (binds : List Binding) : Ctx where
  pc := (Config.freeWord n).truncate 20
  a := Vector.ofFn (fun (i : Fin 16) => Config.freeWord (n + 1 + i.val))
  c := Vector.ofFn (fun (i : Fin 8) => (Config.freeWord (n + 17 + i.val)).truncate 32)
  hdr := Vector.ofFn (fun (i : Fin 8) =>
    let w := Config.freeWord (n + 25 + i.val)
    ⟨w.toNat / 2 ^ 33 % 17, w.toNat.testBit 32, w.truncate 32⟩)
  n := (Config.freeWord (n + 33)).truncate 16
  binds := binds

/-! ### Selection and start -/

/-- The record of the job that left the pleacher has been moved out (R259). -/
def savedOut (e : Eng) (g : Nat) : Bool :=
  !e.jobs.any (fun j => j.g == g && j.xq.any (fun r => r.purpose == .save))

/-- The reads of a job's save record on the host begin (R259, R260). -/
def restoreReads (v : Env) (e : Eng) (j : Job) : Eng :=
  match j.saveAt with
  | .privet _ => e
  | _ =>
    let n := 512 * (1 + (recordRows (j.saved.getD Ctx.reset)).length)
    let base := saveAddr v j.key
    let rs := (joinUnits v ((upTo (n / 64)).map (fun i => base + 64 * i))).map
      (fun x => (⟨false, false, x.1, x.2, [], [], .restore (x.1 - base)⟩ : Req))
    (e.enqueue j.key rs).pump v (j.g / 8)

/-- A saved job is selected: its rows are being restored; the slot of one saved in the privet bank is checked (R375,
R379). -/
def beginRestore (v : Env) (e : Eng) (j : Job) : Eng :=
  let e := e.onPl j.g (fun p => { p with phase := .restoring, cur := j.slot })
  match j.saveAt with
  | .privet s => if pvAdmits v e j.secure && e.pvSlots.contains s then e else e.arise v j.key .privetDenied
  | _ => e

/-- The slot that a yield chose, while it may still be selected (R257, R259). -/
def awaited (e : Eng) (g : Nat) : Option Job :=
  match (e.pl.look g).incoming with
  | some s => (eligible e g).find? (fun j => j.slot == s)
  | none => none

/-- The job that was chosen when the last one began to yield, whose save record is being read already, or the first
eligible READY slot, is selected (R257, R259); a pleacher a slice holds selects none (R328). The slot is READY until the
job starts or is restored (R255; log 94). -/
def selectJob (v : Env) (e : Eng) (g : Nat) : Eng :=
  if (e.pl.look g).phase != .idle || sliceHolds e g || (e.hr.look (g / 8)).testRun then e
  else
    match awaited e g, firstOf (eligible e g) with
    | none, none => e
    | some j, _ =>
      let e := e.onPl g (fun p => { p with incoming := none })
      if j.saved.isSome then beginRestore v e j else e.onPl g (fun p => { p with phase := .selected, cur := j.slot })
    | none, some j =>
      let e := e.onPl g (fun p => { p with incoming := none })
      if j.saved.isSome then restoreReads v (beginRestore v e j) j
      else e.onPl g (fun p => { p with phase := .selected, cur := j.slot })

/-- The registers of a new job (R129). -/
def startCtx (d : Desc) : Ctx :=
  { Ctx.reset with
    pc := BitVec.ofNat 20 d.progEntry
    a := (((Ctx.reset.a.put 0 (BitVec.ofNat 64 d.src.base)).put 1 (BitVec.ofNat 64 d.dst.base)).put 2
      (BitVec.ofNat 64 d.src.scaleBase)).put 3 (BitVec.ofNat 64 d.dst.scaleBase) }

/-- MISALIGNED at a job's start: a built-in job's tensors and index; of a planner job only what its
staging copy moves (R55, R140, R167, log 34). -/
def startMisaligned (j : Job) : Bool :=
  if j.desc.prog then j.staged && !j.desc.src.aligned else j.desc.misaligned

/-- A selected new job starts (R21, R116, R129, R255). -/
def startJob (v : Env) (e : Eng) (g : Nat) : Eng :=
  match (e.pl.look g).phase, e.curJob g with
  | .selected, some j =>
    if !savedOut e g || j.st != .ready then e
    else
      let e := e.onPl g (fun p =>
        { p with phase := .running, ctx := startCtx j.desc, tile := Mem.clear p.tile (tileKey 8 0) 8192,
                 buf := [], fetch := if j.desc.prog then fetchFrom (BitVec.ofNat 20 j.desc.progEntry) else [],
                 flights := [], wait := .none, latches := Latches.reset })
      (e.onJob j.key (fun j =>
        { j with st := .running, begun := true, stage := if j.staged then .owed else .none,
                 misaligned := startMisaligned j })).advance v j.key
  | _, _ => e

/-! ### Staging copy (R182) -/

/-- The copy of a staged job's boxes begins (R181, R182, R401). -/
def copyStart (v : Env) (e : Eng) (g : Nat) : Eng :=
  match (e.pl.look g).phase, e.curJob g with
  | .running, some j =>
    if j.stage != .owed || j.status.isSome then e
    else
      let x := e.touchAll v j.key (j.boxes.map boxAccess)
      match x.2 with
      | .denied => x.1.arise v j.key .privetDenied
      | .wait => x.1
      | .ok => ((beginCopy v x.1 j).pump v (g / 8)).advance v j.key
  | _, _ => e

/-- A write of a job's copy has not taken place (R141, R182). -/
def copyWritesOut (e : Eng) (j : Job) : Bool :=
  j.xq.any (fun r => r.purpose == .stageWrite) ||
  (e.hr.look (j.g / 8)).xacts.any (fun x => x.write && x.owner == j.key && x.purpose == .stageWrite && !x.timedOut)

/-- Every write of the copy has taken place (R182). -/
def copyDone (v : Env) (e : Eng) (g : Nat) : Eng :=
  match e.curJob g with
  | none => e
  | some j =>
    if j.stage != .writing || copyWritesOut e j then e
    else (e.onJob j.key (fun j => { j with stage := .done })).advance v j.key

/-! ### Yield (R125, R258, R259) -/

/-- The lowest-numbered free privet save slot (R375). -/
def freePvSlot (v : Env) (e : Eng) : Option Nat :=
  (upTo (pvSlotCount v)).find? (fun k => !e.jobs.any (fun j => j.saveAt == .privet k))

/-- A reason to yield when the quantum ends: an eligible READY slot, or a pleacher slice that waits; a
secure ring's job yields only into a free privet slot (R258, R328, R375). -/
def mayYield (v : Env) (e : Eng) (g : Nat) (j : Job) : Bool :=
  (!(eligible e g).isEmpty || sliceHolds e g) && (!j.secure || (freePvSlot v e).isSome)

/-- Transfers a yield keeps: staging copies, and the writes of instructions that have retired. -/
def keptAtYield (r : Req) : Bool :=
  match r.purpose with
  | .stageRead _ | .stageWrite | .dest => true
  | _ => false

/-- A read of the job's data, to be made again after a restore. -/
def dataReq (r : Req) : Bool := match r.purpose with | .data _ => true | _ => false

/-- What a suspension leaves of a job's progress: a planner program begins again at its restart address, and a
built-in one that waits for a route at its lookup; another goes on from its position (R159, R261). -/
def Job.yielded (j : Job) : Job :=
  let j' := { j with savedOk := true }
  if j.desc.prog || j.bphase == .start || j.bphase == .route then
    { j' with bphase := .start, rd := [], rdPsn := [], remote := [] }
  else j'

/-- The saved record is written to the host, or to the privet slot the yield took (R260, R375). -/
def saveJob (v : Env) (e : Eng) (j : Job) (img : List Byte) : Eng :=
  match j.saveAt with
  | .privet s =>
    if pvAdmits v e true then { e with mem := e.mem.putBytes .privet (pvSlotAt v s) img }
    else e.arise v j.key .privetDenied
  | _ =>
    let base := saveAddr v j.key
    let bs := (upTo img.length).map (fun i => (base + i, byteAt img i))
    ((e.onJob j.key (fun j => { j with saveAt := .host })).enqueue j.key (writeReqs v bs .save false)).pump v (j.g / 8)

/-- The yielding job of a pleacher leaves it, once nothing of it is in flight (R159, R259-R261). The saved context is
the one it goes on from, with its headers (log 71) and its binding list (R101; log 68). The yield counts in
KZ_HR_SWITCHES here, once the job leaves (R258; log 95). -/
def suspend (v : Env) (e : Eng) (g : Nat) (j : Job) : Eng :=
  let p := e.pl.look g
  let img := sequencerRow e.free ++ recordTiles p
  let e := e.draw 512
  let e := e.onJob j.key (fun j => { j.yielded with saved := some p.ctx })
  let e := e.onPl g (fun p =>
    { p with phase := .idle, flights := [], wait := .none, build := none, buf := [], fetch := [],
             latches := Latches.reset, ctx := { p.ctx with hdr := noHeaders } })
  let e := if j.secure then e.zeroTiles g else e
  let e := e.onHrCnt (g / 8) (fun c => { c with switches := satInc c.switches 1 })
  saveJob v e j img

/-- A read of the job's data is out. -/
def dataOut (e : Eng) (j : Job) : Bool :=
  (e.hr.look (j.g / 8)).xacts.any (fun x =>
    x.owner == j.key && x.live && (match x.purpose with | .data _ => true | _ => false))

/-- The instructions in flight of a list retire, as far as they can (R125); how many writes at other ports their
stores refuse only the clock decides (R188, R196; log 14). -/
def retireAll (v : Env) (g : Nat) (e : Eng) (fs : List Flight) : Eng :=
  fs.foldl (fun e f => (retireI v e g f.id (Config.freeCount e.free)).draw 1) e

/-- A yielding job goes on to its end on the pleacher: what can retire does, and once nothing is in flight and no read
of its data is out its record is saved, and the next job is selected (R125, R257-R259). -/
def yieldStep (v : Env) (e : Eng) (g : Nat) : Eng :=
  if (e.pl.look g).wait != .yielding then e
  else
    let e := retireAll v g e (e.pl.look g).flights
    match e.curJob g with
    | some j =>
      if (e.pl.look g).wait != .yielding || j.status.isSome || !(e.pl.look g).flights.isEmpty || dataOut e j then e
      else selectJob v (suspend v e g j) g
    | none => e

/-- The yielding jobs of a hedgerow go on. -/
def Eng.yieldHr (v : Env) (e : Eng) (h : Nat) : Eng := (upTo 8).foldl (fun e p => yieldStep v e (8 * h + p)) e

/-- A read whose data no instruction in flight waits for any more: of a planner program's those of an abandoned
instruction, of a built-in program's none but a route map's (R125, R261). -/
def strayRead (j : Job) (run : List Flight) (x : Purpose) : Bool :=
  match x with
  | .data k =>
    if j.desc.prog then !run.any (fun f => match f.deliver with | .load _ _ key => k / 2 ^ 53 == key / 2 ^ 53 | _ => false)
    else j.bphase == .start || j.bphase == .route
  | _ => false

/-- A job is SUSPENDED as its yield begins (R255). Its reads not issued are made again, after the restore; a secure job
takes the lowest-numbered free privet slot (R125, R261, R375). A built-in program's reads that were issued run to their
end (log 38). -/
def Job.yields (j : Job) (slot : Option Nat) : Job :=
  { j with
    st := .suspended
    xq := j.xq.filter keptAtYield
    later := if j.desc.prog || j.bphase == .start || j.bphase == .route then [] else j.xq.filter dataReq
    saveAt := match slot with | some s => .privet s | none => j.saveAt }

/-- The job to follow is chosen as a yield begins, and the reads of its save record are issued (R257, R259). -/
def callNext (v : Env) (e : Eng) (g : Nat) : Eng :=
  if sliceHolds e g then e
  else
    match firstOf (eligible e g) with
    | none => e
    | some j =>
      let e := e.onPl g (fun p => { p with incoming := some j.slot })
      if j.saved.isSome then restoreReads v e j else e

/-- The job of a pleacher yields: no instruction follows, those that have issued all their reads run to their ends, the
oldest of the others gives the restart context, and the job to follow is called (R125, R159, R257-R259). `n` says how
many in flight have issued all their reads where only the clock decides it (log 13). An abandoned instruction that
does not run in place has written no row (R125; log 70). -/
def yieldNow (v : Env) (e : Eng) (g n : Nat) : Eng :=
  match e.curJob g with
  | none => e
  | some j =>
    let p := e.pl.look g
    let run := p.running e j n
    let ctx := match p.flights.drop run.length with | f :: _ => f.ckpt | [] => p.ctx
    let e := callNext v e g
    let e := e.onJob j.key (fun j => j.yields (if j.secure then freePvSlot v e else none))
    let e := e.onHr (g / 8) (fun h =>
      { h with xacts := h.xacts.map (fun x => if x.owner == j.key && strayRead j run x.purpose then { x with live := false } else x) })
    yieldStep v (e.onPl g (fun p => { p with flights := run, ctx := ctx, wait := .yielding, build := none })) g

/-- The slice counter reaches Q: the job yields, or the counter restarts (R256, R258). `n` counts the instructions in
flight that have issued all their reads (log 13). -/
def quantum (v : Env) (e : Eng) (g n : Nat) : Eng :=
  match (e.pl.look g).phase, e.curJob g with
  | .running, some j =>
    if j.st != .running || j.status.isSome || !mayYield v e g j then e
    else yieldNow v e g n
  | _, _ => e

/-- PB_PREEMPT of KZ_SLICE_CFG (R258). -/
def pbPreempt (v : Env) : Bool := wbit v.regs.sliceCfg 20

/-- A slot has become READY: where its job is phase-bound with its window open, the unbound RUNNING job of its
pleacher yields at once under PB_PREEMPT, a secure ring's job only into a free privet slot (R258, R375). How many
instructions in flight have issued all their reads, where R130 does not say it, only the clock decides (log 38). -/
def preempt (v : Env) (e : Eng) (k : Nat × Nat) : Eng :=
  match e.jobAt k, (e.pl.look k.1).phase, e.curJob k.1 with
  | some b, .running, some j =>
    if pbPreempt v && b.st == .ready && b.windowOpen && j.st == .running && j.status.isNone && !j.bound &&
        (!j.secure || (freePvSlot v e).isSome)
    then yieldNow v (e.draw 1) k.1 (Config.freeCount e.free) else e
  | _, _, _ => e

/-- Every write of a suspended job's record has taken place (R255, R260, R379): not while the job still leaves its
pleacher, when the record has not been moved out. -/
def saveDone (v : Env) (e : Eng) (g slot : Nat) : Eng :=
  match e.jobAt (g, slot) with
  | none => e
  | some j =>
    if j.st != .suspended || j.onPleacher e || j.status.isSome || j.xq.any (fun r => r.purpose == .save) ||
       (e.hr.look (g / 8)).xacts.any (fun x => x.owner == j.key && x.purpose == .save && !x.timedOut) then e
    else
      let e := match j.saveAt with
        | .privet s => { e with pvSlots := s :: e.pvSlots.filter (fun x => x != s) }
        | _ => e
      preempt v (e.makeReady j.key) j.key

/-- Instruction `id` retires, and a job that yields goes on until it leaves the pleacher (R122, R259). -/
def retireOne (v : Env) (e : Eng) (g id refusals : Nat) : Eng := yieldStep v (retireI v e g id refusals) g

/-- The last restored row is written and the job goes on (R118, R129, R375). -/
def restoreDone (v : Env) (e : Eng) (g : Nat) : Eng :=
  match (e.pl.look g).phase, e.curJob g with
  | .restoring, some j =>
    if readsOut e j || !savedOut e g || j.status.isSome then e
    else
      let saved := j.saved.getD Ctx.reset
      let ctx := if j.savedOk then saved else freeCtx e.free saved.binds
      let e := if j.savedOk then e else e.draw 34
      match j.saveAt with
      | .privet s =>
        if !(pvAdmits v e j.secure && e.pvSlots.contains s) then e.arise v j.key .privetDenied
        else
          let base := pvSlotAt v s
          let tile := restoreRows (e.pl.look g).tile ctx (fun o => e.mem.byte .privet (base + o))
          let e := { e with pvSlots := e.pvSlots.filter (fun x => x != s) }
          resume v e g j ctx tile
      | _ => resume v e g j ctx (restoreRows (e.pl.look g).tile ctx (fun o => Mem.byte j.rd (restoreKey + o)))
  | _, _ => e
where
  /-- The restored job runs again: its registers, shadow and latches as R116 and R118 give; a built-in program makes
  the reads it had left, and where its position is lost what it writes is undefined (R261, R375). -/
  resume (v : Env) (e : Eng) (g : Nat) (j : Job) (ctx : Ctx) (tile : Mem) : Eng :=
    let e := e.onPl g (fun p =>
      { p with phase := .running, ctx := ctx, tile := tile, buf := [], flights := [], wait := .none,
               latches := Latches.reset, fetch := if j.desc.prog then fetchFrom ctx.pc else [] })
    let e := e.onJob j.key (fun j =>
      { j with st := .running, saveAt := .none, rd := Mem.clear j.rd restoreKey (2 ^ 52), xq := j.xq ++ j.later,
               later := [], undef := j.undef || (!j.desc.prog && !j.savedOk) })
    (e.pump v (g / 8)).advance v j.key

end Sys2Proof.Machine
end

