-- ==== Sys2Proof/Machine/Queue.lean ====
section
/-! DEFINITION. Polling, fetch, the admission queue and the admission order (R209-R223, R243-R246,
R275, R276, R280, R281). -/

namespace Sys2Proof.Machine

open Sys2Proof

/-! ### Rings -/

/-- The Hedger's state of a ring; a ring not met since the reset is unloaded (R216). -/
def Hedger.ring (h : Hedger) (n : Nat) : Ring :=
  (h.rings.find? (fun r => r.num == n)).getD { (default : Ring) with num := n }

/-- A ring into a list by rising number. -/
def putRing : List Ring → Ring → List Ring
  | [], r => [r]
  | x :: xs, r => if r.num < x.num then r :: x :: xs else if r.num == x.num then r :: xs else x :: putRing xs r

/-- One ring changed. -/
def Eng.onRing (e : Eng) (n : Nat) (f : Ring → Ring) : Eng :=
  e.onHed (fun h => { h with rings := putRing h.rings (f (h.ring n)) })

/-- A ring context from its 16 bytes (R215). -/
def parseRing (x : Nat) : RingCtx where
  sizeLog2 := bits x 60 4
  fgen := bits x 58 2
  secure := bitOn x 57
  descBase := bits x 0 52 / 256 * 256
  enable := bitOn x 127
  evt := bitOn x 126
  ordered := bitOn x 125
  cplBase := bits x 64 52 / 32 * 32

/-- N of a ring (R215). -/
def RingCtx.size (c : RingCtx) : Nat := 2 ^ (c.sizeLog2 + 1)

/-- Rings below SEC_RINGS (R372). -/
def belowSec (v : Env) (n : Nat) : Bool := decide (n < min 65536 (bits v.sec.cfg.toNat 0 17))

/-- The marking fixed at a load (R372). -/
def marksSecure (v : Env) (n : Nat) (c : RingCtx) : Bool :=
  c.secure && belowSec v n && v.cfg.privet && !v.ao.qs

/-! ### Poll configuration (R213) -/

/-- SUM_LINES. -/
def sumLines (v : Env) : Nat :=
  let x := bits v.regs.pollCfg.toNat 16 8
  max 1 (min x (if v.cfg.ringFull then 128 else 8))

/-- BURST. -/
def burstOf (v : Env) : Nat :=
  let x := bits v.regs.pollCfg.toNat 24 4
  if x == 0 then 16 else x

/-- KZ_DB_BASE. -/
def dbBase (v : Env) : Nat := base52 v.regs.dbBaseLo v.regs.dbBaseHi (2 ^ 16)

/-- KZ_RING_TBL. -/
def ringTbl (v : Env) : Nat := base52 v.regs.ringTblLo v.regs.ringTblHi (2 ^ 12)

/-- A read of the Hedger. -/
def cfpRead (who : CfpWho) (addr len : Nat) (sec : Bool) : CfpX :=
  ⟨0, who, addr % 2 ^ 52, len, sec, [], false⟩

/-! ### Queue and order -/

/-- The head of a ring: its first entry in the queue that does not stand in the admission order yet (R244,
R275). -/
def Hedger.head (h : Hedger) (n : Nat) : Option QJob := h.queue.find? (fun q => q.ring == n && !q.ordered)

/-- An entry changed. -/
def Eng.onQJob (e : Eng) (n : Nat) (s : W32) (f : QJob → QJob) : Eng :=
  e.onHed (fun h => { h with queue := h.queue.map (fun q => if q.ring == n && q.seq == s then f q else q) })

/-- Held by RING_FENCE: C of its ring has not reached its SEQ (R227, R244). -/
def fenced (e : Eng) (q : QJob) : Bool := q.desc.ringFence && (e.hed.ring q.ring).c != q.seq

/-- Whether a queued job is phase-bound: its window is fixed, or PHASE_EN takes effect now (R233). -/
def isBound (v : Env) (e : Eng) (q : QJob) : Bool := q.win.isSome || bindsNow v e q.desc

/-- A bound job whose window has not opened (R244). -/
def notOpen (v : Env) (e : Eng) (q : QJob) : Bool :=
  match q.win with
  | some w => !w.opened
  | none => bindsNow v e q.desc

/-- A job that is phase-bound or held: it ends a run of followers (R245). -/
def stopsRun (v : Env) (e : Eng) (q : QJob) : Bool := isBound v e q || fenced e q

/-- The jobs that enter the order with a head: those of its ring behind it up to the next that is
phase-bound or held (R245). -/
def followers (v : Env) (e : Eng) (q : QJob) : List (Nat × W32) :=
  let behind := (e.hed.queue.dropWhile (fun x => !(x.ring == q.ring && x.seq == q.seq))).drop 1
  ((behind.filter (fun x => x.ring == q.ring)).takeWhile
    (fun x => x.handed && !x.ordered && !stopsRun v e x)).map (fun x => (x.ring, x.seq))

/-- A job whose PHASE_EN has no effect when it becomes the head, or enters the order with one, is handled as
unbound from then on (R233, R272). -/
def unbind (q : QJob) : QJob := { q with desc := { q.desc with phaseEn := false } }

/-- A job enters the order; one without a window is unbound (R233). -/
def QJob.enter (q : QJob) : QJob := if q.win.isSome then { q with ordered := true } else unbind { q with ordered := true }

/-- Jobs marked as standing in the order. -/
def Eng.markOrdered (e : Eng) (ks : List (Nat × W32)) : Eng :=
  e.onHed (fun h => { h with queue := h.queue.map (fun q => if ks.contains (q.ring, q.seq) then q.enter else q) })

/-- Jobs appended at the end of the order (R245). -/
def Eng.appendOrder (e : Eng) (ks : List (Nat × W32)) : Eng :=
  (e.onHed (fun h => { h with order := h.order ++ ks })).markOrdered ks

/-- A release of ring `n` appended at the end of the order, but before the rounds of a tick that ends in the
same cycle; behind them where the ring has jobs in them, so that it stays in ascending SEQ (R245). -/
def Eng.releaseOrder (e : Eng) (rounds : List (Nat × W32)) (n : Nat) (ks : List (Nat × W32)) : Eng :=
  e.onHed (fun h =>
    { h with order :=
        if rounds.any (fun k => k.1 == n) then h.order ++ ks
        else h.order.takeWhile (fun k => !rounds.contains k) ++ ks ++ h.order.dropWhile (fun k => !rounds.contains k) })

/-- The place directly after the last job of ring `n` in an order, or the front (R245). -/
def insertAfterRing (n : Nat) (ks : List (Nat × W32)) (order : List (Nat × W32)) : List (Nat × W32) :=
  let i := order.length - (order.reverse.takeWhile (fun x => x.1 != n)).length
  order.take i ++ ks ++ order.drop i

/-- An opening placed in the order (R245). -/
def Eng.openOrder (e : Eng) (n : Nat) (ks : List (Nat × W32)) : Eng :=
  e.onHed (fun h => { h with order := insertAfterRing n ks h.order })

/-- The on-block write boxes of a job that was not admitted: those whose memory its pin names (R242, log 76).
A job that is not run makes no write (R226), and neither does a stop, which leaves every byte of the
memories as it is (R361, R363). -/
def QJob.writeBoxes (v : Env) (e : Eng) (q : QJob) (st : Status) : List Claim :=
  if q.bad.isSome || st == .fencedUnit || st == .abortedStop then []
  else (claimsOf q.desc q.desc.pleacher).filter (fun c => c.write &&
    (match c.inst with
     | .host => false
     | .bank h => decide (1 ≤ q.desc.pin) && v.isHr h
     | .leaf g => decide (2 ≤ q.desc.pin) && v.isPl g
     | .privet => pvAdmits v e (e.hed.ring q.ring).secure))

/-- A job leaves the queue without admission in the present cycle and its record waits for its turn (R235,
R242, R248, R281). The status of a failed descriptor read arose before any other (R223, R238). -/
def Eng.dropQueued (v : Env) (e : Eng) (q : QJob) (st : Status) : Eng :=
  let bound := isBound v e q
  let φ := if bound then (e.dom.look q.desc.domain).phase else 0
  let e := (q.writeBoxes v e st).foldl Eng.havocBox e
  e.onHed (fun h =>
    { h with
      queue := h.queue.filter (fun x => !(x.ring == q.ring && x.seq == q.seq))
      order := h.order.filter (fun x => x != (q.ring, q.seq))
      ends := h.ends ++ [⟨q.ring, q.seq, none, q.bad.getD st, if q.bad.isSome then 0 else q.desc.tag,
        if bound then q.desc.domain else 0, φ, e.cycle⟩] })

/-- Jobs that leave the queue without admission in one cycle (R248, R281). -/
def Eng.dropAll (v : Env) (e : Eng) (qs : List QJob) (st : Status) : Eng :=
  if qs.isEmpty then e else qs.foldl (fun e q => e.dropQueued v q st) e.newCycle

/-- An ending status for admitted jobs `ks` and queued jobs `qs`, in one cycle. -/
def Eng.endAll (v : Env) (e : Eng) (ks : List (Nat × Nat)) (qs : List QJob) (st : Status) : Eng :=
  if ks.isEmpty && qs.isEmpty then e
  else
    (qs.foldl (fun e q => e.dropQueued v q st) (ks.foldl (fun e k => e.ariseNow v k st) e.newCycle)).orderEnds
      e.hed.ends.length

/-- A job's key in the queue. -/
def QJob.id (q : QJob) : Nat × W32 := (q.ring, q.seq)

/-- The window of a job that has become the head of its ring is fixed (R275); a drop mark of its instance
ends it (R280); without an effect of PHASE_EN it is unbound. The list gathers the heads whose window is
found open; `c` numbers the cycle for a status that arises. -/
def fixHead (v : Env) (c : Nat) (x : Eng × List (Nat × W32)) (n : Nat) : Eng × List (Nat × W32) :=
  match x.1.hed.head n with
  | none => x
  | some q =>
    if !q.handed || q.bad.isSome || q.win.isSome then x
    else if bindsNow v x.1 q.desc then
      let m := x.1.dom.look q.desc.domain
      let w := fixWindow m q.desc
      if m.mark == some w.inst then ({ x.1 with cycle := c }.dropQueued v { q with win := some w } .droppedPeriod, x.2)
      else (x.1.onQJob n q.seq (fun q => { q with win := some w }), if w.opened then q.id :: x.2 else x.2)
    else (x.1.onQJob n q.seq unbind, x.2)

/-- What one ring adds to the order in a cycle: the rank of its first opening, the jobs that enter by openings, and
those that enter by a release, with openings behind it in the ring (R245). -/
structure RingEntry where
  ring : Nat
  rank : Nat
  opens : List (Nat × W32)
  rels : List (Nat × W32)
  deriving DecidableEq, Repr, Inhabited

/-- The rank of an opening among those of its cycle: domain, open phase, ring, SEQ (R245). -/
def QJob.rank (q : QJob) : Nat :=
  ((q.desc.domain * 2 ^ 24 + q.desc.openPhase) * 2 ^ 16 + q.ring) * 2 ^ 32 + q.seq.toNat

/-- An opening into a list by falling rank. -/
def byRank : List RingEntry → RingEntry → List RingEntry
  | [], x => [x]
  | y :: r, x => if y.rank ≤ x.rank then x :: y :: r else y :: byRank r x

/-- The head of a ring as it stands: its window is fixed, a drop mark ends it, and one that R244 does not hold enters
the order with the jobs behind it, as an opening where its window opens now or is found open, and otherwise as a
release (R244, R245, R275, R280). A draining stop ends a held one (R362). -/
def headStep (v : Env) (c : Nat) (drain : Bool) (x : (Eng × List (Nat × W32)) × RingEntry) (n : Nat) :
    (Eng × List (Nat × W32)) × RingEntry :=
  let y := fixHead v c x.1 n
  match y.1.hed.head n with
  | none => (y, x.2)
  | some q =>
    if !q.handed || (q.win.isNone && bindsNow v y.1 q.desc) then (y, x.2)
    else if notOpen v y.1 q || fenced y.1 q then
      (if drain then (({ y.1 with cycle := c }.dropQueued v q .abortedStop, y.2), x.2) else (y, x.2))
    else
      let ks := q.id :: followers v y.1 q
      let r := x.2
      ((y.1.markOrdered ks, y.2),
        if y.2.contains q.id && r.rels.isEmpty then
          { r with rank := if r.opens.isEmpty then q.rank else r.rank, opens := r.opens ++ ks }
        else { r with rels := r.rels ++ ks })

/-- The heads of one ring in turn: a head that enters the order or leaves uncovers the next. -/
def ringEntry (v : Env) (c : Nat) (drain : Bool) (e : Eng) (fresh : List (Nat × W32)) (n : Nat) : Eng × RingEntry :=
  let k := 2 * (e.hed.queue.filter (fun q => q.ring == n && !q.ordered)).length
  let x := (List.replicate k n).foldl (headStep v c drain) ((e, fresh), ⟨n, 0, [], []⟩)
  (x.1.1, x.2)

/-- The heads of rings `ns`, which ascend, brought up to date, and what they add to the order: openings first, then
releases in ascending ring (R244, R245). `fresh` are the heads whose window opens now; an open window whose head was
held by its fence enters as a fence release. Openings placed before every waiting job are placed in falling rank, so
that they stand in rising rank. `rounds` are the rounds of a tick that ends in this cycle, and `drain` says that a
draining stop ends held heads (R362). -/
def updateRings (v : Env) (e : Eng) (ns : List Nat) (rounds fresh : List (Nat × W32)) (drain : Bool) : Eng :=
  let c := e.newCycle.cycle
  let x := ns.foldl (fun (x : Eng × List RingEntry) n =>
    let y := ringEntry v c drain x.1 fresh n
    (y.1, x.2 ++ [y.2])) (e, [])
  let opens := (x.2.filter (fun r => !r.opens.isEmpty)).foldl byRank []
  let e := opens.foldl (fun e r => e.openOrder r.ring r.opens) x.1
  (x.2.filter (fun r => !r.rels.isEmpty)).foldl (fun e r => e.releaseOrder rounds r.ring r.rels) e

/-- Every ring's head brought up to date, where the windows of `fresh` open and the rounds `rounds` enter the
order in this cycle. -/
def Eng.updateAll (v : Env) (e : Eng) (rounds fresh : List (Nat × W32)) : Eng :=
  updateRings v e (e.hed.rings.map (fun r => r.num)) rounds fresh false

/-- Every ring's head brought up to date, where the windows of `fresh` open in this cycle. -/
def Eng.updateFresh (v : Env) (e : Eng) (fresh : List (Nat × W32)) : Eng := e.updateAll v [] fresh

/-- Every ring's head brought up to date. -/
def Eng.updateHeads (v : Env) (e : Eng) : Eng := e.updateFresh v []

/-! ### Rounds (R246) -/

/-- The jobs of one ring that a tick's rounds take: those up to its first job in the queue that is phase-bound, of the
jobs that are not in the order yet (R246; log 96). -/
def roundJobs (v : Env) (e : Eng) (fetched : List (Nat × W32)) (n : Nat) : List (Nat × W32) :=
  (((e.hed.queue.filter (fun q => q.ring == n && !q.ordered)).takeWhile
    (fun q => q.bad.isSome || !stopsRun v e q)).map (fun q => (q.ring, q.seq))).filter (fun k => fetched.contains k)

/-- The rings of a round: ascending, beginning above ST and wrapping (R246). -/
def turnOrder (st : Nat) (ns : List Nat) : List Nat :=
  ns.filter (fun n => decide (st < n)) ++ ns.filter (fun n => decide (n ≤ st))

/-- Round k takes the k-th job of each ring. -/
def roundsOf : Nat → List (List (Nat × W32)) → List (Nat × W32)
  | 0, _ => []
  | n + 1, xs => xs.filterMap List.head? ++ roundsOf n (xs.map List.tail)

/-- The tick ends: its jobs are handed over and its rounds appended; the openings and releases of the same
cycle take their places before them (R218 step 5, R245, R246). -/
def endTick (v : Env) (e : Eng) (t : Tick) : Eng :=
  let e := e.onHed (fun h =>
    { h with tick := none, queue := h.queue.map (fun q => if t.fetched.contains (q.ring, q.seq) then { q with handed := true } else q) })
  let ns := turnOrder e.hed.st ((t.fetched.map (fun k => k.1)).foldl (fun u n => addUnit u n) [])
  let per := (ns.map (roundJobs v e t.fetched)).filter (fun l => !l.isEmpty)
  let order := roundsOf (t.fetched.length) per
  let e := (e.appendOrder order).updateAll v order []
  match order with
  | k :: _ => e.onHed (fun h => { h with st := k.1 })
  | [] => e

/-! ### Fetch (R219, R243) -/

/-- Free queue entries, counting those whose descriptors are still being read. -/
def queueRoom (e : Eng) : Bool := decide (e.hed.queue.length < 512)

/-- Entries of a ring. -/
def ringEntries (e : Eng) (n : Nat) : Nat := (e.hed.queue.filter (fun q => q.ring == n)).length

/-- One descriptor read issued (R219). -/
def fetchOne (e : Eng) (n : Nat) : Eng :=
  let r := e.hed.ring n
  let seq := r.f
  let addr := r.ctx.descBase + 256 * (seq.toNat % r.ctx.size)
  let e := e.onRing n (fun r => { r with f := r.f + 1, pend := r.f + 1 != r.prodSeen })
  let e := e.onHed (fun h =>
    { h with
      queue := h.queue ++ [⟨n, seq, default, false, none, false, false, none⟩]
      tick := h.tick.map (fun t => { t with fetched := t.fetched ++ [(n, seq)] }) })
  e.cfpAsk (cfpRead (.descr n seq) addr 256 r.secure)

/-- The fetches of a tick: a ring at its limit is passed over, and a full queue holds the tick (R243).
The list names a ring once for each descriptor it may fetch. -/
def fetchN : Nat → Eng → Eng
  | 0, e => e
  | k + 1, e =>
    match e.hed.tick with
    | none => e
    | some t =>
      match t.plan with
      | [] => e
      | n :: rest =>
        if ringEntries e n ≥ 64 then
          fetchN k (e.onHed (fun h => { h with tick := some { t with plan := rest } }))
        else if queueRoom e then
          fetchN k (fetchOne (e.onHed (fun h => { h with tick := some { t with plan := rest } })) n)
        else e

/-- The fetches a tick will make: every loaded and enabled ring with PEND in ascending number, up to BURST
descriptors each; a ring that is due a reload is not served (R217, R219, R220). -/
def fetchPlan (e : Eng) (burst : Nat) : List Nat :=
  (e.hed.rings.filter (fun r => r.loaded && r.ctx.enable && r.pend && !r.due)).flatMap (fun r =>
    List.replicate (min burst (r.prodSeen - r.f).toNat) r.num)

/-- The tick goes on once its doorbells and table entries have returned: it fetches, and it ends when all
its descriptors have arrived (R218, R219, log 17). -/
def advanceTick (v : Env) (e : Eng) : Eng :=
  match e.hed.tick with
  | none => e
  | some t =>
    if !t.lines.isEmpty || !t.got.isEmpty || !t.doorbells.isEmpty || !t.tables.isEmpty then e
    else
      let e := if t.fetching then e
        else e.onHed (fun h => { h with tick := some { t with fetching := true, plan := fetchPlan e t.burst } })
      let e := fetchN ((e.hed.tick.map (fun t => t.plan.length)).getD 0) e
      match e.hed.tick with
      | none => e
      | some t =>
        if t.plan.isEmpty && t.fetched.all (fun k => e.hed.queue.all (fun q => !(q.ring == k.1 && q.seq == k.2) || q.arrived))
        then endTick v e t else e.pumpCfp v

/-- A poll tick begins (R218). -/
def beginTick (v : Env) (e : Eng) : Eng :=
  if e.phase != .running || e.stop.isSome || e.hed.tick.isSome then e
  else
    let n := sumLines v
    let e := e.onHed (fun h => { h with tick := some ⟨n, burstOf v, 0, upTo n, [], [], [], false, [], []⟩ })
    ((upTo n).foldl (fun e l => e.cfpAsk (cfpRead (.summary l) (dbBase v + 64 * l) 64 false)) e).pumpCfp v

/-- Doorbell reads for a list of rings (R218 step 2). -/
def askDoorbells (v : Env) (e : Eng) (ns : List Nat) : Eng :=
  let e := e.onHed (fun h => { h with tick := h.tick.map (fun t => { t with doorbells := t.doorbells ++ ns }) })
  ns.foldl (fun e n => e.cfpAsk (cfpRead (.doorbell n) (dbBase v + 65536 + 64 * n) 64 false)) e

/-- The rings a returned summary line makes the tick read, in ascending number (R218, R220). -/
def lineRings (v : Env) (e : Eng) (l : Nat) (line : BitVec 512) : List Nat :=
  ((upTo 512).map (fun b => 512 * l + b)).filter (fun n =>
    decide (n < v.cfg.rings) && (line.toNat.testBit (n % 512) || (e.hed.ring n).reload))

/-- Returned lines take their turn in ascending number; after the last one the remaining rings with RELOAD
set follow (R218). -/
def takeLinesN : Nat → Env → Eng → Eng
  | 0, _, e => e
  | k + 1, v, e =>
    match e.hed.tick with
    | none => e
    | some t =>
      match t.got.find? (fun x => x.1 == t.nextLine) with
      | none => e
      | some (l, line) =>
        let t' := { t with nextLine := l + 1, got := t.got.filter (fun x => x.1 != l) }
        let ns := lineRings v e l line
        let above := if l + 1 == t.nLines then
            (e.hed.rings.filter (fun r => r.reload && decide (512 * t.nLines ≤ r.num))).map (fun r => r.num) else []
        takeLinesN k v (askDoorbells v (e.onHed (fun h => { h with tick := some t' })) (ns ++ above))

/-- An outstanding read of the Hedger with this tag, removed; none where no such read is outstanding. -/
def takeCfp (e : Eng) (tag : Nat) : Option (CfpX × Eng) :=
  match e.hed.cfpOut.find? (fun x => x.tag == tag) with
  | none => none
  | some x => some (x, e.onHed (fun h => { h with cfpOut := h.cfpOut.filter (fun y => y.tag != tag) }))

/-- A response beat on the control port for which nothing is outstanding (R306, R399). -/
def strayCfp (e : Eng) : Eng := (e.onCnt (fun c => { c with fabStray := satInc c.fabStray 1 })).err 3

/-- A failed read of the Hedger is counted (R223). -/
def cfpReadErr (e : Eng) : Eng := (e.onCnt (fun c => { c with cfpRdErr := satInc c.cfpRdErr 1 })).err 0

/-- The tick's state changed. -/
def Eng.onTick (e : Eng) (f : Tick → Tick) : Eng := e.onHed (fun h => { h with tick := h.tick.map f })

/-- A summary line is in hand; a failed one counts as zeros (R218, R223). -/
def gotSummary (v : Env) (e : Eng) (l : Nat) (line : BitVec 512) : Eng :=
  let e := e.onTick (fun t => { t with lines := t.lines.filter (fun x => x != l), got := t.got ++ [(l, line)] })
  let n := (e.hed.tick.map (fun t => t.nLines)).getD 0
  (advanceTick v (takeLinesN n v e)).pumpCfp v

/-- A ring's doorbell treated as newly read (R219). -/
def noteProd (e : Eng) (n : Nat) (prod : W32) : Eng :=
  e.onRing n (fun r => if prod != r.f then { r with prodSeen := prod, pend := true } else { r with prodSeen := prod })

/-- A doorbell line is in hand: a load or reload begins, or waits in RELOAD while C differs from F, or the
producer count is noted (R217-R220). -/
def gotDoorbell (v : Env) (e : Eng) (n : Nat) (line : BitVec 512) : Eng :=
  let prod := BitVec.ofNat 32 (bits line.toNat 0 32)
  let epoch := BitVec.ofNat 8 (bits line.toNat 32 8)
  let r := e.hed.ring n
  let e := e.onTick (fun t => { t with doorbells := t.doorbells.filter (fun x => x != n) })
  let due := !r.loaded || r.epoch != epoch || r.reload
  let e :=
    if due && r.c == r.f then
      ((e.onTick (fun t => { t with tables := t.tables ++ [n] })).onRing n (fun r => { r with due := true })).cfpAsk
        (cfpRead (.table n prod epoch) (ringTbl v + 16 * n) 16 (belowSec v n))
    else if due then e.onRing n (fun r => { r with due := true, reload := true })
    else noteProd (e.onRing n (fun r => { r with due := false })) n prod
  (advanceTick v e).pumpCfp v

/-- A doorbell read failed: the ring is not served from it in this tick (R223). -/
def lostDoorbell (v : Env) (e : Eng) (n : Nat) : Eng :=
  (advanceTick v (e.onTick (fun t => { t with doorbells := t.doorbells.filter (fun x => x != n) }))).pumpCfp v

/-- A ring's context is loaded (R217, R372). -/
def gotTable (v : Env) (e : Eng) (n : Nat) (prod : W32) (epoch : BitVec 8) (entry : BitVec 128) : Eng :=
  let c := parseRing entry.toNat
  let e := e.onTick (fun t => { t with tables := t.tables.filter (fun x => x != n) })
  let e := e.onRing n (fun r =>
    { r with loaded := true, f := 0, c := 0, epoch := epoch, pend := false, reload := false, due := false, ctx := c,
             secure := marksSecure v n c })
  (advanceTick v (noteProd e n prod)).pumpCfp v

/-- A table read failed: no load is made, and nothing more is fetched from the ring (R217, R223, log 78). -/
def lostTable (v : Env) (e : Eng) (n : Nat) : Eng :=
  (advanceTick v (e.onTick (fun t => { t with tables := t.tables.filter (fun x => x != n) }))).pumpCfp v

/-- A descriptor arrives in the queue, or its read has failed (R219, R223). -/
def gotDescr (v : Env) (e : Eng) (n : Nat) (s : W32) (slot : BitVec 2048) (bad : Option Status) : Eng :=
  let d := if bad.isSome then { (default : Desc) with phaseEn := false } else parseDesc slot.toNat
  (advanceTick v (e.onQJob n s (fun q => { q with desc := d, arrived := true, bad := bad }))).pumpCfp v

end Sys2Proof.Machine
end

