-- ==== Sys2Proof/Machine/Admission.lean ====
section
/-! DEFINITION. The Hedger's commands: poll ticks and their reads, the release of fences, admission, a
stop's effect on the queue, and completion records (R218-R223, R226, R234-R242, R243-R253, R362, R414). -/

namespace Sys2Proof.Machine

open Sys2Proof

/-! ### Leaving service (R335, R362) -/

/-- A slice in progress is stopped and its rows or tiles are cleared; a turn whose slice has not started ends without a
result, but for one that forced its hedgerow's fence, whose slice starts once the drain ends (R349); the slices of a
re-admission test stop (R335, log 42). -/
def Eng.haltSlice (e : Eng) (h : Nat) : Eng :=
  e.onHr h (fun r =>
    { r with
      testCut := r.testCut || r.testRun
      turn := match r.turn with
        | some t => if t.st == .waiting then (if t.forced then some t else none) else some { t with st := .clearing }
        | none => none })

/-- A hedgerow leaves the management of the block: MGMT_IN becomes 0, a START that waits is over, and its slice stops
(R335, R362, R364). -/
def Eng.mgmtOut (e : Eng) (h : Nat) : Eng :=
  (e.onHr h (fun r => { r with mgmtIn := false, starting := false })).haltSlice h

/-- MGMT_IN of every hedgerow becomes 0, for the stop in progress (R362). -/
def Eng.allOut (e : Eng) : Eng := { (upTo 12).foldl Eng.mgmtOut e with left := true }

/-- MGMT_IN of every hedgerow becomes 0, once in a stop, and of one that has come back to it since (R362). -/
def Eng.leaveAll (e : Eng) : Eng :=
  if e.left && !(upTo 12).any (fun h => (e.hr.look h).mgmtIn) then e else e.allOut

/-- The heads that R244 holds and that a tick has handed over. -/
def heldHeads (v : Env) (e : Eng) : List QJob :=
  (e.hed.rings.filterMap (fun r => e.hed.head r.num)).filter (fun q => q.handed && (notOpen v e q || fenced e q))

/-- Every held head of a draining stop ends, in one cycle, and those behind them come forward (R245, R362). -/
def dropHeld (v : Env) (e : Eng) : Eng :=
  if (heldHeads v e).isEmpty then e else updateRings v e (e.hed.rings.map (fun r => r.num)) [] [] true

/-- A status meets those that arose in the present cycle for jobs that were never admitted (R238). -/
def Eng.meetEnds (e : Eng) (st : Status) : Eng :=
  e.onHed (fun h =>
    { h with ends := h.ends.map (fun r => if r.key.isNone then { r with status := e.meet r.arose r.status st } else r) })

/-- Every job of the queue that a tick has handed over ends in an abortive stop (R362). -/
def dropHanded (v : Env) (e : Eng) : Eng := e.dropAll v (e.hed.queue.filter (fun q => q.handed)) .abortedStop

/-- What a stop in progress does to the queue: a draining stop ends held jobs, an abortive one every job
that has been handed over; MGMT_IN falls once the queue has emptied (R362). -/
def Eng.settleStop (v : Env) (e : Eng) : Eng :=
  match e.stop with
  | none => e
  | some drain =>
    let e := Eng.orderEnds e.hed.ends.length (if drain then dropHeld v e else dropHanded v e)
    if e.hed.tick.isNone && e.hed.queue.isEmpty then e.leaveAll else e

/-- The heads of the queue and a stop in progress brought up to date. -/
def Eng.settle (v : Env) (e : Eng) : Eng := (e.updateHeads v).settleStop v

/-! ### Poll ticks and their reads -/

/-- POLL_TICK: the poll period expires (R218). -/
def execPollTick (s : State) : Out := .next (s.onEng (beginTick s.env s.eng))

/-- The response to a read of the Hedger: a beat without a transaction is counted (R306), the response of
a timed-out read is discarded (R316), a failed read is counted (R223). A response of another kind than
the outstanding read's is no event of the block (log 2). -/
def cfpReturn (v : Env) (e : Eng) (tag : Nat) (want : CfpWho → Bool) (ok : Bool)
    (good bad : CfpWho → Eng → Eng) : Eng :=
  if e.inReset then e
  else
    match takeCfp e tag with
    | none => strayCfp e
    | some (x, e') =>
      if !want x.who then e
      else if x.timedOut then e'.pumpCfp v
      else (if ok then good x.who e' else bad x.who (cfpReadErr e')).settle v

/-- A response without an error and without poison. -/
def goodRead (psn : Bool) (code : BitVec 2) : Bool := !psn && code == 0

/-- SUMMARY_LINE_RETURN (R218, R223). -/
def execSummaryLineReturn (tag : Nat) (line : BitVec 512) (psn : Bool) (code : BitVec 2) (s : State) : Out :=
  .next (s.onEng (cfpReturn s.env s.eng tag
    (fun w => match w with | .summary _ => true | _ => false) (goodRead psn code)
    (fun w e => match w with | .summary l => gotSummary s.env e l line | _ => e)
    (fun w e => match w with | .summary l => gotSummary s.env e l 0 | _ => e)))

/-- DOORBELL_LINE_RETURN (R217-R220, R223). -/
def execDoorbellLineReturn (tag : Nat) (line : BitVec 512) (psn : Bool) (code : BitVec 2) (s : State) : Out :=
  .next (s.onEng (cfpReturn s.env s.eng tag
    (fun w => match w with | .doorbell _ => true | _ => false) (goodRead psn code)
    (fun w e => match w with | .doorbell n => gotDoorbell s.env e n line | _ => e)
    (fun w e => match w with | .doorbell n => lostDoorbell s.env e n | _ => e)))

/-- RING_TABLE_RETURN (R217, R223, R372). -/
def execRingTableReturn (tag : Nat) (entry : BitVec 128) (psn : Bool) (code : BitVec 2) (s : State) : Out :=
  .next (s.onEng (cfpReturn s.env s.eng tag
    (fun w => match w with | .table _ _ _ => true | _ => false) (goodRead psn code)
    (fun w e => match w with | .table n prod epoch => gotTable s.env e n prod epoch entry | _ => e)
    (fun w e => match w with | .table n _ _ => lostTable s.env e n | _ => e)))

/-- DESCRIPTOR_RETURN (R219, R223, R243). -/
def execDescriptorReturn (tag : Nat) (slot : BitVec 2048) (psn : Bool) (code : BitVec 2) (s : State) : Out :=
  .next (s.onEng (cfpReturn s.env s.eng tag
    (fun w => match w with | .descr _ _ => true | _ => false) (goodRead psn code)
    (fun w e => match w with | .descr n q => gotDescr s.env e n q slot none | _ => e)
    (fun w e => match w with | .descr n q => gotDescr s.env e n q slot (some .fabricError) | _ => e)))

/-- DESCRIPTOR_FETCH_RESUME: a tick that waits for a free entry goes on (R243). -/
def execDescriptorFetchResume (s : State) : Out :=
  .next (s.onEng
    (match s.eng.hed.tick with
     | some t => if t.fetching && !t.plan.isEmpty && queueRoom s.eng
         then ((advanceTick s.env s.eng).pumpCfp s.env).settle s.env else s.eng
     | none => s.eng))

/-- RING_FENCE_RELEASE: a held head's condition is met, and it enters the order with its followers (R227,
R244, R245). -/
def execRingFenceRelease (ring : Nat) (s : State) : Out :=
  .next (s.onEng (updateRings s.env s.eng [ring] [] [] false))

/-! ### Admission (R247-R253) -/

/-- The pin admits pleacher `g` (R226). -/
def Desc.pinned (d : Desc) (g : Nat) : Bool :=
  match d.pin with
  | 0 => true
  | 1 => g / 8 == d.pleacher / 8
  | _ => g == d.pleacher

/-- The named unit is in service; a hedgerow in quickset mode is hedgerow 0 (R226, R360). -/
def pinServed (v : Env) (e : Eng) (d : Desc) : Bool :=
  match d.pin with
  | 0 => true
  | 1 => inService v e (d.pleacher / 8) && (!v.ao.qs || d.pleacher / 8 == 0)
  | _ => plInService v e d.pleacher

/-- Free job slots of a pleacher, of 32 (R20). -/
def freeSlots (e : Eng) (g : Nat) : Nat := 32 - (e.jobs.filter (fun j => j.g == g)).length

/-- The lowest free slot of a pleacher (log 16). -/
def slotFor (e : Eng) (g : Nat) : Option Nat :=
  (upTo 32).find? (fun s => !e.jobs.any (fun j => j.isAt (g, s)))

/-- A pleacher eligible for a job and with a free slot; while a comparator slice runs, its hedgerow counts
as having none for a phase-bound job (R249, R330). -/
def canTake (v : Env) (e : Eng) (q : QJob) (g : Nat) : Bool :=
  plInService v e g && q.desc.pinned g && (slotFor e g).isSome && !(q.win.isSome && comparatorTaken e (g / 8))

/-- Of the pleachers that can take a job, the one with the most free slots, the lowest among equals. -/
def mostFree (e : Eng) : List Nat → Option Nat
  | [] => none
  | g :: r =>
    match mostFree e r with
    | none => some g
    | some k => if freeSlots e g < freeSlots e k then some k else some g

/-- The choice of R249. -/
def choosePleacher (v : Env) (e : Eng) (q : QJob) : Option Nat :=
  let best := mostFree e ((upTo (8 * v.cfg.hedgerows)).filter (canTake v e q))
  match (e.jobs.filter (fun j => j.ring == q.ring)).reverse with
  | j :: _ => if canTake v e q j.g then some j.g else best
  | [] => best

/-- The entry of a job that is admitted (R179, R250, R253, R255). -/
def entryOf (e : Eng) (q : QJob) (g slot : Nat) : Job :=
  let cs := claimsOf q.desc g
  let wait := (e.jobs.filter (fun k => mustWait cs k.claims)).map Job.key
  let boxes := stagedBoxes cs
  { ring := q.ring, seq := q.seq, desc := q.desc, secure := (e.hed.ring q.ring).secure,
    admitSeq := e.hed.admitNext, g := g, slot := slot,
    st := if wait.isEmpty then .ready else .waiting, wait := wait, claims := cs, stamp := e.stamp,
    begun := false, bound := q.win.isSome, win := q.win, status := none, faultIdx := 0, endPhase := 0,
    poisoned := false, oob := false, onEdge := false, staged := !boxes.isEmpty, reclaimed := false,
    waited := !wait.isEmpty, misaligned := false, undef := false, stage := .none, boxes := boxes,
    bphase := .start, units := none, xq := [], rd := [], rdPsn := [], remote := [], resolved := [],
    ownerBusy := false, saved := none, savedOk := false, saveAt := .none, later := [], idxAt := [], srcAt := [],
    copy := ⟨[], [], []⟩, copyRemote := [], arose := 0 }

/-- A job is admitted to a slot: it leaves the queue and takes the next ADMIT_SEQ (R247). -/
def intoSlot (e : Eng) (q : QJob) (g slot : Nat) : Eng :=
  let j := entryOf e q g slot
  let e := { e with jobs := e.jobs ++ [j], stamp := e.stamp + 1 }
  let e := e.onHed (fun h =>
    { h with
      admitNext := h.admitNext + 1
      queue := h.queue.filter (fun x => !(x.ring == q.ring && x.seq == q.seq))
      order := h.order.filter (fun x => x != (q.ring, q.seq)) })
  if j.waited then e.onCnt (fun c => { c with claimWaits := satInc c.claimWaits 1 }) else e

/-- The first job of the admission order is admitted, passed on without admission (R248), or waits for a
slot (R249); a READY phase-bound one may preempt (R258). -/
def admitFirst (v : Env) (e : Eng) : Eng :=
  match e.hed.order with
  | [] => e
  | k :: _ =>
    match e.hed.queue.find? (fun q => q.ring == k.1 && q.seq == k.2) with
    | none => e.onHed (fun h => { h with order := h.order.drop 1 })
    | some q =>
      match q.bad with
      | some st => (e.dropAll v [q] st).settle v
      | none =>
        if !pinServed v e q.desc then (e.dropAll v [q] .fencedUnit).settle v
        else
          match choosePleacher v e q with
          | none => e
          | some g =>
            match slotFor e g with
            | none => e
            | some slot => (preempt v (intoSlot e q g slot) (g, slot)).settle v

/-- ADMISSION_COMPARE (R247). -/
def execAdmissionCompare (s : State) : Out := .next (s.onEng (admitFirst s.env s.eng))

/-! ### Completion records (R234-R242) -/

/-- STATUS of a job's record (R236, R238). -/
def Job.code (j : Job) : Nat :=
  match j.status with
  | some st => st.code
  | none => if j.poisoned then 0x01 else 0x00

/-- FLAGS of a job's record (R237); a dropped job never carries ON_EDGE (R279). -/
def Job.flags (j : Job) : Nat :=
  flagBits [j.onEdge && j.status.isNone, j.staged, j.reclaimed, j.oob, j.waited, j.misaligned]

/-- PHASE of the record with record count `c` (R234). -/
def recordPhase (c : W32) (x : RingCtx) : Nat := 1 - bits c.toNat (x.sizeLog2 + 1) 1

/-- The 32 bytes of a record (R235); `cycles` is CYCLES of an admitted job (log 4). -/
def recordBytes (e : Eng) (r : EndRef) (j : Option Job) (cycles : W32) : List Byte :=
  let ring := e.hed.ring r.ring
  let pl := match j with | some j => j.g | none => 0x7F
  let fl := match j with | some j => j.flags | none => 0
  let st := match j with | some j => j.code | none => r.status.code
  let idx := match j with | some j => j.faultIdx.toNat | none => 0
  let adm := match j with | some j => j.admitSeq.toNat | none => 0xFFFFFFFF
  let dom := match j with | some j => if j.bound then j.desc.domain else 0 | none => r.domain
  leBytes 4 (recordPhase ring.c ring.ctx * 2 ^ 31 + pl * 2 ^ 16 + fl * 2 ^ 8 + st) ++
  leBytes 4 r.seq.toNat ++ leBytes 8 r.tag.toNat ++ leBytes 4 (idx * 2 ^ 16 + r.ring % 2 ^ 16) ++
  leBytes 4 adm ++ leBytes 4 (if j.isSome then cycles.toNat else 0) ++
  leBytes 4 (dom % 16 * 2 ^ 24 + r.phase.toNat)

/-- Whether a mirror bit lies in the semaphore window of a hedgerow (R198). -/
def inSemWin (v : Env) (h bit : Nat) : Bool :=
  let w := (v.regs.hr.look h).semWin.toNat
  let page := bit / 8 / 4096
  decide (bits w 0 8 ≤ page) && decide (page < bits w 0 8 + min 256 (bits w 16 9)) && decide (page < 256)

/-- The mirror bit of a record, written through the bit-set window (R195, R198, R240 step 1), and whether
the record may go on. `collide`: a SYNC action's write met it and it was refused once (R196, log 14). -/
def mirrorWrite (v : Env) (e : Eng) (j : Job) (collide : Bool) : Eng × Bool :=
  let h := j.g / 8
  let bit := j.desc.mirrorBit
  if !j.desc.mirrorEn || !inSemWin v h bit then (e, true)
  else
    let x := e.touch v j.key (.bank h) [bit / 8]
    match x.2 with
    | .ok =>
      let old := x.1.mem.byte (.bank h) (bit / 8)
      let e := { x.1 with mem := x.1.mem.put (.bank h) (bit / 8) (old ||| BitVec.ofNat 8 (2 ^ (bit % 8))) }
      (if collide then e.onHrCnt h (fun c => { c with hbCollide := satInc c.hbCollide 1 }) else e, true)
    | _ => (x.1, false)

/-- A record's turn in its ring (R239). -/
def itsTurn (e : Eng) (r : EndRef) : Bool :=
  !(e.hed.ring r.ring).ctx.ordered || (e.hed.ring r.ring).c == r.seq

/-- The drop counters of a domain (R414). -/
def countDrop (e : Eng) (d : Nat) (st : Option Status) : Eng :=
  match st with
  | some .droppedLate => e.onDom d (fun m => { m with late := satInc m.late 1 })
  | some .droppedPeriod => e.onDom d (fun m => { m with discard := satInc m.discard 1 })
  | _ => e

/-- The record is issued: claims and slot are released, and C advances (R234, R240 steps 2 and 3); a phase-bound
job that becomes READY may preempt (R258). -/
def issueRecord (v : Env) (e : Eng) (r : EndRef) (j : Option Job) : Eng :=
  let ring := e.hed.ring r.ring
  let data := recordBytes e r j (Config.freeCycles e.free)
  let addr := (ring.ctx.cplBase + 32 * (ring.c.toNat % ring.ctx.size)) % 2 ^ 52
  let e := if j.isSome then e.draw 1 else e
  let e := countDrop e (match j with | some j => j.desc.domain | none => r.domain)
    (match j with | some j => j.status | none => some r.status)
  let e := e.onHed (fun h => { h with ends := h.ends.erase r })
  let freed := match j with | some j => (waitersOf e j.key) | none => []
  let e := match j with
    | some j => ({ e with jobs := e.jobs.filter (fun x => !x.isAt j.key) }).releaseWaits j.key
    | none => e
  let e := e.onRing r.ring (fun x => { x with c := x.c + 1 })
  let e := (e.cfpAsk ⟨0, .record r.ring ring.ctx.evt, addr, 32, ring.secure, data, false⟩).pumpCfp v
  (freed.foldl (preempt v) e).settle v

/-- The first record whose turn has come and whose mirror write can be made; a ring whose record waits for
its mirror write is passed over (R239, R240). -/
def recordFrom (v : Env) (collide : Bool) : List EndRef → List Nat → Eng → Eng
  | [], _, e => e
  | r :: rest, stuck, e =>
    if stuck.contains r.ring || !itsTurn e r then recordFrom v collide rest stuck e
    else
      match r.key.bind e.jobAt with
      | none => issueRecord v e r none
      | some j =>
        let x := mirrorWrite v e j collide
        if x.2 then issueRecord v x.1 r (some j) else recordFrom v collide rest (r.ring :: stuck) x.1

/-- COMPLETION_RECORD (R239, R240). -/
def execCompletionRecord (collide : Bool) (s : State) : Out :=
  .next (s.onEng (recordFrom s.env collide s.eng.hed.ends [] s.eng))

end Sys2Proof.Machine
end

