-- ==== Sys2Proof/Machine/Responses.lean ====
section
/-! DEFINITION. Responses and timeouts of the fabric paths (R53, R141, R223, R239-R241, R289, R292, R296,
R306, R309, R315, R316, R320). -/

namespace Sys2Proof.Machine

open Sys2Proof

/-! ### Counting -/

/-- ERROR on a job's transaction (R316, R396, R398). -/
def countFabErr (e : Eng) (h : Nat) : Eng :=
  ((e.onHrCnt h (fun c => { c with fabErr := satInc c.fabErr 1 })).err 2).errOf h

/-- Timeout of a job's transaction (R316, R396, R398). -/
def countFabTmo (e : Eng) (h : Nat) : Eng :=
  ((e.onHrCnt h (fun c => { c with fabTmo := satInc c.fabTmo 1 })).err 2).errOf h

/-- A beat without a transaction on a hedgerow's port (R306). -/
def strayHr (e : Eng) (h : Nat) : Eng :=
  ((e.onHrCnt h (fun c => { c with fabErr := satInc c.fabErr 1 })).err 3).errOf h

/-- The job a transaction was made for, while it still holds its slot. -/
def Eng.jobOf (e : Eng) (x : Xact) : Option Job :=
  match e.jobAt x.owner with
  | some j => if j.admitSeq == x.adm then some j else none
  | none => none

/-- A status arises for the job of a transaction, if the job still holds its slot (R238). -/
def ariseOf (v : Env) (e : Eng) (x : Xact) (st : Status) : Eng :=
  match e.jobOf x with
  | some j => e.arise v j.key st
  | none => e

/-- A transaction of a port changed. -/
def Eng.onXact (e : Eng) (h tag : Nat) (f : Xact → Xact) : Eng :=
  e.onHr h (fun r => { r with xacts := r.xacts.map (fun x => if x.tag == tag then f x else x) })

/-- A transaction of a port ended. -/
def Eng.dropXact (e : Eng) (h tag : Nat) : Eng :=
  e.onHr h (fun r => { r with xacts := r.xacts.filter (fun x => x.tag != tag) })

/-! ### Read responses on a hedgerow port -/

/-- The bytes of a request that a beat carries: (byte address, lane), blocks of 128 bytes (R305). -/
def beatBytes (x : Xact) (beat : Nat) : List (Nat × Nat) :=
  let base := (x.addr / 128 + beat) * 128
  ((upTo 128).map (fun k => (base + k, k))).filter (fun p => decide (x.addr ≤ p.1) && decide (p.1 < x.addr + x.len))

/-- The poisoned 64-byte units of a request that a beat carries (R306). -/
def beatPoison (x : Xact) (beat : Nat) (psn : BitVec 2) : List Nat :=
  let base := (x.addr / 128 + beat) * 128
  ((upTo 2).filter (fun k => psn.toNat.testBit k && decide (base + 64 * k < x.addr + x.len) &&
    decide (x.addr < base + 64 * k + 64))).map (fun k => base + 64 * k)

/-- Byte of a beat in lane `k`. -/
def laneOf (data : BitVec 1024) (k : Nat) : Byte := BitVec.ofNat 8 (bits data.toNat (8 * k) 8)

/-- Bytes of a beat kept by the job, byte `a` of the request at `key` + a − address. -/
def keepBytes (m : Mem) (x : Xact) (data : BitVec 1024) (key : Nat) : Mem :=
  (beatBytes x x.beat).foldl (fun m p => Mem.put m (key + (p.1 - x.addr)) (laneOf data p.2)) m

/-- Unit `n` of a staging copy is read, with its poison (R182, R320). -/
def stageUnit (e : Eng) (j : Job) (x : Xact) (data : BitVec 1024) (n : Nat) (psn : List Nat) : Eng :=
  e.onJob j.key (fun j =>
    { j with copy := { j.copy with
      rd := keepBytes j.copy.rd x data (64 * n)
      psn := if psn.isEmpty then j.copy.psn else n :: j.copy.psn } })

/-- An owner-table entry comes into the job's resolution list of 16 (R288, R289). -/
def gotOwner (e : Eng) (j : Job) (x : Xact) (data : BitVec 1024) (t b : Nat) : Eng :=
  let w := leNat ((beatBytes x x.beat).map (fun p => laneOf data p.2))
  let entry := (t, b, bits w 58 6, bits w 0 52 / 64 * 64)
  e.onJob j.key (fun j =>
    { j with ownerBusy := false, resolved := (j.resolved ++ [entry]).drop (j.resolved.length + 1 - 16) })

/-- A beat without error delivered to the transfer that asked for it (R53, R289, R316, R320). -/
def deliverBeat (v : Env) (e : Eng) (j : Job) (x : Xact) (data : BitVec 1024) (psn : List Nat) : Eng :=
  match x.purpose with
  | .data key =>
    e.onJob j.key (fun j =>
      { j with rd := keepBytes j.rd x data key, rdPsn := j.rdPsn ++ psn.map (fun u => key + (u - x.addr)) })
  | .restore off =>
    if psn.isEmpty then e.onJob j.key (fun j => { j with rd := keepBytes j.rd x data (restoreKey + off) })
    else (countFabErr e (j.g / 8)).arise v j.key .fabricError
  | .owner t b => if psn.isEmpty then gotOwner e j x data t b else e.arise v j.key .fabricError
  | .stageRead n => stageUnit e j x data n psn
  | _ => e

/-- A beat of a read that is outstanding (R306). -/
def readBeat (v : Env) (e : Eng) (h : Nat) (x : Xact) (data : BitVec 1024) (psn : BitVec 2) (bad : Bool) : Eng :=
  let ps := beatPoison x x.beat psn
  let e := e.onHrCnt h (fun c => { c with poison := satInc c.poison ps.length })
  if x.timedOut then e
  else if bad then
    (if x.erred then e else ariseOf v (countFabErr (e.onXact h x.tag (fun y => { y with erred := true })) h) x .fabricError)
  else if x.live && !x.erred then
    (match e.jobOf x with
     | some j => deliverBeat v e j x data ps
     | none => e)
  else e

/-- A beat of a read response on a hedgerow port (R306); a yielding job whose data are in goes on (R259). -/
def hfpReadResponse (v : Env) (h tag : Nat) (data : BitVec 1024) (psn code : BitVec 2) (last : Bool) (e : Eng) : Eng :=
  match (e.hr.look h).xacts.find? (fun x => x.tag == tag) with
  | none => strayHr e h
  | some x =>
    if x.write then e
    else
      let e := readBeat v e h x data psn (code != 0)
      let e := if last then e.dropXact h tag else e.onXact h tag (fun y => { y with beat := y.beat + 1 })
      (e.drive v h).yieldHr v h

/-- FABRIC_READ_RESPONSE (R306). -/
def execFabricReadResponse (h tag : Nat) (data : BitVec 1024) (psn code : BitVec 2) (last : Tied Bool) (s : State) : Out :=
  .next (s.onEng
    (if s.eng.inReset || !s.env.isHr h then s.eng
     else s.eng.tied last.tie (hfpReadResponse s.env h tag data psn code last.val)))

/-! ### Write responses -/

/-- A write response on a hedgerow port (R141, R292, R316). -/
def hfpWriteResponse (v : Env) (e : Eng) (h tag : Nat) (code : BitVec 2) : Eng :=
  match (e.hr.look h).xacts.find? (fun x => x.tag == tag) with
  | none => strayHr e h
  | some x =>
    if !x.write then e
    else
      let e := e.dropXact h tag
      let e :=
        if x.timedOut || code == 0 then e
        else if x.remote && code == 2 then
          ariseOf v (e.onCnt (fun c => { c with dtRmtRefused := satInc c.dtRmtRefused 1 })) x .windowClosed
        else ariseOf v (countFabErr e h) x .fabricError
      (e.tryEnd v x.owner).drive v h

/-- A record's write has been answered or has timed out: the event pulse and the error count (R240,
R241). -/
def recordAnswered (e : Eng) (evt bad : Bool) : Eng :=
  let e := if evt then { e with evts := e.evts + 1 } else e
  if bad then (e.onCnt (fun c => { c with cfpWrErr := satInc c.cfpWrErr 1 })).err 1 else e

/-- A write response on the control port (R240, R241). -/
def cfpWriteResponse (v : Env) (e : Eng) (tag : Nat) (code : BitVec 2) : Eng :=
  match takeCfp e tag with
  | none => strayCfp e
  | some (x, e') =>
    match x.who with
    | .record _ evt => (if x.timedOut then e' else recordAnswered e' evt (code != 0)).pumpCfp v
    | _ => e

/-- One local write of an inbound transaction is acknowledged or has failed; the last one sends the
response (R296, R309). -/
def iwpAcked (e : Eng) (num : Nat) (bad : Bool) : Eng :=
  match e.iwp.txs.find? (fun t => t.num == num) with
  | none => e
  | some t =>
    let t := { t with left := t.left - 1, bad := t.bad || bad }
    if t.left == 0 then
      let e := { e with iwp := { e.iwp with
        txs := e.iwp.txs.filter (fun x => x.num != num)
        resps := e.iwp.resps ++ [⟨t.src, t.id, if t.bad then 1 else 0, t.win⟩] } }
      if t.bad then (e.onCnt (fun c => { c with iwpErr := satInc c.iwpErr 1 })).err 4 else e
    else { e with iwp := { e.iwp with txs := e.iwp.txs.map (fun x => if x.num == num then t else x) } }

/-- A write response on the local write path (R296, R306, R309). -/
def iwpWriteResponse (v : Env) (e : Eng) (tag : Nat) (code : BitVec 2) : Eng :=
  match e.iwp.out.find? (fun x => x.tag == tag) with
  | none => strayCfp e
  | some x =>
    let e := { e with iwp := { e.iwp with out := e.iwp.out.filter (fun y => y.tag != tag) } }
    (if x.timedOut then e else iwpAcked e x.num (code != 0)).pumpIwp v

/-- A write response on one of the paths. -/
def writeResponse (v : Env) (path : Path) (tag : Nat) (code : BitVec 2) (e : Eng) : Eng :=
  match path with
  | .hfp h => if v.isHr h then hfpWriteResponse v e h tag code else e
  | .cfp => cfpWriteResponse v e tag code
  | .iwp => if v.cfg.iwp then iwpWriteResponse v e tag code else e

/-- FABRIC_WRITE_RESPONSE (R141, R240, R241, R292, R296, R306, R309, R316). -/
def execFabricWriteResponse (path : Path) (tag : Nat) (code : Tied (BitVec 2)) (s : State) : Out :=
  .next (s.onEng (if s.eng.inReset then s.eng else s.eng.tied code.tie (writeResponse s.env path tag code.val)))

/-! ### Timeouts (R315, R316) -/

/-- A timer that runs: its class has a timeout and neither quiesce nor training is in effect. -/
def timerRuns (v : Env) (e : Eng) (sc : Nat) : Bool :=
  tmoOf v sc != 0 && !e.iface.quiesce && !e.iface.train

/-- A job's transaction times out; its tag stays occupied (R316). -/
def hfpTimeout (v : Env) (e : Eng) (h tag : Nat) : Eng :=
  match (e.hr.look h).xacts.find? (fun x => x.tag == tag && !x.timedOut) with
  | none => e
  | some x =>
    if !timerRuns v e x.sc then e
    else
      let e := countFabTmo (e.onXact h tag (fun y => { y with timedOut := true, live := false })) h
      ((ariseOf v e x .fabricTimeout).tryEnd v x.owner).drive v h

/-- A read of the Hedger that failed by its timeout (R223). -/
def cfpLost (v : Env) (w : CfpWho) (e : Eng) : Eng :=
  match w with
  | .summary l => gotSummary v e l 0
  | .doorbell n => lostDoorbell v e n
  | .table n _ _ => lostTable v e n
  | .descr n q => gotDescr v e n q 0 (some .fabricTimeout)
  | .record _ _ => e

/-- A transaction of the control port times out (R223, R240, R241, R315). -/
def cfpTimeout (v : Env) (e : Eng) (tag : Nat) : Eng :=
  match e.hed.cfpOut.find? (fun x => x.tag == tag && !x.timedOut) with
  | none => e
  | some x =>
    if !timerRuns v e 1 then e
    else
      let e := e.onHed (fun h =>
        { h with cfpOut := h.cfpOut.map (fun y => if y.tag == tag then { y with timedOut := true } else y) })
      match x.who with
      | .record _ evt => recordAnswered e evt true
      | w => (cfpLost v w (cfpReadErr e)).settle v

/-- A local write of the IWP times out (R309, R315). -/
def iwpTimeout (v : Env) (e : Eng) (tag : Nat) : Eng :=
  match e.iwp.out.find? (fun x => x.tag == tag && !x.timedOut) with
  | none => e
  | some x =>
    if !timerRuns v e x.sc then e
    else
      (iwpAcked { e with iwp := { e.iwp with
        out := e.iwp.out.map (fun y => if y.tag == tag then { y with timedOut := true } else y) } } x.num true).pumpIwp v

/-- The timeout of a transaction of one of the paths. -/
def pathTimeout (v : Env) (path : Path) (tag : Nat) (e : Eng) : Eng :=
  match path with
  | .hfp h => hfpTimeout v e h tag
  | .cfp => cfpTimeout v e tag
  | .iwp => iwpTimeout v e tag

/-- FABRIC_TIMEOUT (R315, R316). -/
def execFabricTimeout (path : Path) (tag : Tied Nat) (s : State) : Out :=
  .next (s.onEng (s.eng.tied tag.tie (pathTimeout s.env path tag.val)))

end Sys2Proof.Machine
end

