-- ==== Sys2Proof/Machine/PhaseCmds.lean ====
section
/-! DEFINITION. Phase sources, period domains, windows and drops (R266-R284). -/

namespace Sys2Proof.Machine

open Sys2Proof

/-! ### Source wraps (R268, R270) -/

/-- A domain wrap begins a new domain period and sets WRAP (R270, R284). -/
def newPeriod (m : Domain) (pnum : W32) : Domain := { m with k := 0, pnum := pnum, wrap := true }

/-- A wrap of a domain's source (R270); the stall count starts anew (R273). -/
def domainWrap (div : Nat) (m : Domain) : Domain :=
  match m.st with
  | .disabled => m
  | .armed => newPeriod { m with st := .running, stalled := false } 0
  | .running =>
    if m.k + 1 < div then { m with k := m.k + 1, stalled := false }
    else newPeriod { m with stalled := false } (m.pnum + 1)

/-- Whether a wrap of a domain's source is a domain wrap. -/
def wrapsDomain (div : Nat) (m : Domain) : Bool :=
  match m.st with
  | .disabled => false
  | .armed => true
  | .running => !decide (m.k + 1 < div)

/-- A domain wrap counts for the turns it holds (R330). -/
def countWrap (d : Nat) (r : Hedgerow) : Hedgerow :=
  { r with turn := r.turn.map (fun t =>
      if t.st == .waiting && t.holder == some d then { t with wraps := t.wraps + 1 } else t) }

/-- The wrap of one domain's source. -/
def wrapOne (v : Env) (wraps : BitVec 6) (e : Eng) (d : Nat) : Eng :=
  if !wraps.toNat.testBit (domSrc v d) then e
  else
    let m := e.dom.look d
    let e := if wrapsDomain (domDiv v d) m then (upTo 12).foldl (fun e h => e.onHr h (countWrap d)) e else e
    e.onDom d (domainWrap (domDiv v d))

/-- What one fc cycle captures: the wraps, with every source's value in it (R268, R270). -/
def Eng.capture (v : Env) (e : Eng) (c : Captured) : Eng :=
  { ((upTo 16).foldl (wrapOne v c.wraps) e).sample v c.ph with phWrap := c.wraps }

/-- SOURCE_WRAP (R268, R270). -/
def execSourceWrap (wraps : BitVec 6) (ph : Phases) (s : State) : Out :=
  .next (s.onEng (if !s.env.cfg.phase || s.eng.inReset then s.eng else s.eng.capture s.env ⟨wraps, ph⟩))

/-- STALL_LIMIT of a domain. -/
def stallLimit (v : Env) (d : Nat) : Nat := bits (v.regs.pd.look d).cfg.toNat 0 16

/-- PD_STALL: the stall count is reached (R273). -/
def execPdStall (d : Nat) (s : State) : Out :=
  .next (s.onEng
    (if (s.eng.dom.look d).st == .running && stallLimit s.env d != 0 && !(s.eng.dom.look d).stalled
     then s.eng.onDom d (fun m => { m with stall := true, stalled := true }) else s.eng))

/-! ### Windows (R274-R281) -/

/-- Whether a running domain has reached a position. -/
def domReached (e : Eng) (d t : Nat) : Bool :=
  (e.dom.look d).st == .running && reached (e.dom.look d).pos t

/-- A phase-bound head whose open cycle has come (R276). -/
def opensNow (e : Eng) (q : QJob) : Bool :=
  match q.win with
  | some w => !w.opened && !q.ordered && domReached e q.desc.domain (q.desc.openPos w.inst)
  | none => false

/-- A queued phase-bound job whose close cycle has come (R276, R279). -/
def closesQueued (e : Eng) (q : QJob) : Bool :=
  match q.win with
  | some w => domReached e q.desc.domain (q.desc.closePos w.inst)
  | none => false

/-- An admitted phase-bound job whose close cycle has come: it has not ended, or its status arose in this very
cycle, and its close takes effect all the same (R277, R279, R280). -/
def closesJob (e : Eng) (j : Job) : Bool :=
  j.bound &&
  (match j.win with
   | some w =>
     ((j.st != .ended && !w.closed) || (e.tie && j.status.isSome && j.arose == e.cycle)) &&
     domReached e j.desc.domain (j.desc.closePos w.inst)
   | none => false)

/-- A window of one of some instances. -/
def inInsts (xs : List (Nat × W32)) (d : Desc) (w : Option Win) : Bool :=
  match w with
  | some w => xs.contains (d.domain, w.inst)
  | none => false

/-- DROPPED_PERIOD for every job of some instances that has not ended (R280). -/
def dropInsts (v : Env) (e : Eng) (xs : List (Nat × W32)) : Eng :=
  e.endAll v ((e.jobs.filter (fun j => j.bound && inInsts xs j.desc j.win)).map Job.key)
    (e.hed.queue.filter (fun q => inInsts xs q.desc q.win)) .droppedPeriod

/-- The drop mark and DROP of a domain (R279, R280, R284). -/
def markDrop (e : Eng) (x : Nat × W32) : Eng :=
  e.onDom x.1 (fun m => { m with mark := some x.2, drop := true })

/-- Instances of a list of windows, by domain. -/
def instOfWin (d : Desc) (w : Option Win) : List (Nat × W32) :=
  match w with
  | some w => [(d.domain, w.inst)]
  | none => []

/-- DROPPED_LATE for closing jobs, whose close entries have done their work (R279). -/
def dropLate (v : Env) (e : Eng) (js : List Job) (qs : List QJob) : Eng :=
  (e.shut (fun j => js.any (fun k => k.key == j.key))).endAll v (js.map Job.key) qs .droppedLate

/-- The instances of closing jobs. -/
def instsOf (js : List Job) (qs : List QJob) : List (Nat × W32) :=
  js.flatMap (fun j => instOfWin j.desc j.win) ++ qs.flatMap (fun q => instOfWin q.desc q.win)

/-- Cycle X + 1 of a close: the drop marks, and the jobs of the same instances that close now (R279, R280). -/
def closeNext (v : Env) (e : Eng) (xs : List (Nat × W32)) : Eng :=
  let js := e.jobs.filter (fun j => closesJob e j && inInsts xs j.desc j.win)
  let qs := e.hed.queue.filter (fun q => closesQueued e q && inInsts xs q.desc q.win)
  (dropLate v (xs.foldl markDrop e) js qs).settle v

/-- Cycle X + 2 of a close: DROPPED_PERIOD for the rest of the instances; a job of theirs that closes now gets it
too, and its own close is done (R279, R280). -/
def closeLast (v : Env) (e : Eng) (xs : List (Nat × W32)) : Eng :=
  (dropInsts v (e.shut (fun j => closesJob e j && inInsts xs j.desc j.win)) xs).settle v

/-- The two cycles after a close, with what they capture (R279, log 19); nothing where no job was dropped. -/
def afterClose (v : Env) (e : Eng) (xs : List (Nat × W32)) (next next2 : Captured) : Eng :=
  if xs.isEmpty then e
  else
    let e := { e with tie := false }
    closeLast v ((closeNext v (e.capture v next) xs).capture v next2) xs

/-- The closes of a cycle X, with their instances (R279, R281). -/
def closeNow (v : Env) (e : Eng) : Eng × List (Nat × W32) :=
  let js := e.jobs.filter (closesJob e)
  let qs := e.hed.queue.filter (closesQueued e)
  ((dropLate v e js qs).settle v, instsOf js qs)

/-- The openings of a cycle: a head whose window also closes in it is dropped, the others are placed in the
admission order (R245, R276). -/
def openNow (v : Env) (e : Eng) : Eng × List (Nat × W32) :=
  let late := e.hed.queue.filter (fun q => opensNow e q && closesQueued e q)
  let now := e.hed.queue.filter (fun q => opensNow e q && !closesQueued e q)
  let opened (q : QJob) : QJob := { q with win := q.win.map (fun w => { w with opened := true }) }
  let n := e.hed.ends.length
  let e := now.foldl (fun e q => e.onQJob q.ring q.seq opened) e
  let e := dropLate v e [] late
  (Eng.orderEnds n ((e.updateFresh v (now.map QJob.id)).settleStop v), instsOf [] late)

/-- The closes of a cycle and what follows in the two after it (R279-R281). -/
def closeWindows (v : Env) (e : Eng) (next next2 : Captured) : Eng :=
  let x := closeNow v e
  afterClose v x.1 x.2 next next2

/-- The openings of a cycle, and what follows a drop among them (R276, R280). -/
def openWindows (v : Env) (e : Eng) (next next2 : Captured) : Eng :=
  let x := openNow v e
  afterClose v x.1 x.2 next next2

/-- WINDOW_OPEN (R245, R276). -/
def execWindowOpen (ph : Cycles) (s : State) : Out :=
  let v := s.env
  .next (s.onEng (if !v.phaseOn || s.eng.inReset then s.eng else openWindows v (s.eng.sample v ph.ph) ph.next ph.next2))

/-- WINDOW_CLOSE (R276, R279-R281). -/
def execWindowClose (ph : Tied Cycles) (s : State) : Out :=
  let v := s.env
  .next (s.onEng
    (if !v.phaseOn || s.eng.inReset then s.eng
     else (s.eng.sample v ph.val.ph).tied ph.tie (fun e => closeWindows v e ph.val.next ph.val.next2)))

/-- PWAIT_COMPLETE: the domain's phase reaches the target (R137, R282). -/
def execPwaitComplete (g : Nat) (ph : Phases) (s : State) : Out :=
  let v := s.env
  .next (s.onEng
    (if !v.cfg.phase then s.eng
     else
       match (s.eng.pl.look g).wait with
       | .pwait _ _ => pwaitDone v (s.eng.sample v ph) g
       | _ => s.eng))

/-! ### Enabling and disabling domains (R270-R272, R330) -/

/-- A job's close entry in the comparator: that of a phase-bound job that has not ended, until its close (R282,
log 19). -/
def Job.hasEntry (j : Job) : Bool :=
  j.bound && j.st != .ended && (match j.win with | some w => !w.closed | none => false)

/-- The domains with an entry in a hedgerow's comparator: close entries of its phase-bound jobs and target
entries of its waiting PWAITs (R282). -/
def cmpDomains (e : Eng) (h : Nat) : List Nat :=
  ((e.jobs.filter (fun j => j.g / 8 == h && j.hasEntry)).map (fun j => j.desc.domain)) ++
  (upTo 8).flatMap (fun p =>
    match (e.pl.look (8 * h + p)).wait with
    | .pwait d _ => [d]
    | _ => [])

/-- The lowest-numbered domain with an entry (R330). -/
def lowest : List Nat → Option Nat
  | [] => none
  | d :: r =>
    match lowest r with
    | none => some d
    | some x => some (min d x)

/-- A comparator turn held by a domain that is disabled passes to the next one (R330). -/
def passHolder (d : Nat) (e : Eng) (h : Nat) : Eng :=
  e.onHr h (fun r =>
    { r with turn := r.turn.map (fun t => if t.holder == some d then { t with holder := lowest (cmpDomains e h) } else t) })

/-- A domain becomes DISABLED: its jobs that have not ended get DROPPED_PERIOD, their close entries are freed, and
waiting PWAITs on it complete (R272). -/
def disableDomain (v : Env) (e : Eng) (d : Nat) : Eng :=
  let e := e.onDom d (fun m => { m with st := .disabled, mark := none })
  let mine (j : Job) : Bool := j.bound && j.desc.domain == d
  let e := (e.shut mine).endAll v ((e.jobs.filter mine).map Job.key)
    (e.hed.queue.filter (fun q => q.win.isSome && q.desc.domain == d)) .droppedPeriod
  let e := (upTo 96).foldl (pwaitDone v) e
  (upTo 12).foldl (passHolder d) e

/-- ENABLE becomes 1 (R270). -/
def armDomain (e : Eng) (d : Nat) : Eng :=
  e.onDom d (fun m => { m with st := .armed, k := 0, pnum := 0, phase := 0, mark := none, stalled := false })

/-- The RW bits of KZ_PD_CFG. -/
def pdCfgMask : Nat := 0x87FFFFFF

/-- The registers with another KZ_PD_CFG of domain `d`. -/
def Env.putPdCfg (v : Env) (d : Nat) (word : W32) : Env :=
  { v with regs := { v.regs with pd := v.regs.pd.upd d (fun r => { r with cfg := maskWrite pdCfgMask word }) } }

/-- SRC and DIV as written. -/
def pdBinding (w : W32) : Nat := fld w 26 16

/-- A write to KZ_PD_CFG (R271): a domain bound anew is DISABLED and ARMED in one cycle, and the heads that its
drops uncover meet it ARMED. The records of the jobs it drops carry the phase from before the arming (log 89). While
kz_rst_n is low only the fields are stored (R392). -/
def writePdCfg (s : State) (d : Nat) (word : W32) : State :=
  let old := (s.env.regs.pd.look d).cfg
  let v := s.env.putPdCfg d word
  let s := s.onEnv v
  if s.eng.inReset then s
  else
    let on := wbit word 31
    let rebound := pdBinding old != pdBinding (maskWrite pdCfgMask word)
    let ends := wbit old 31 && (!on || rebound)
    let e := if ends then disableDomain v s.eng d else s.eng
    let e := if on && (!wbit old 31 || rebound) then armDomain e d else e
    s.onEng (if ends then e.settle v else e)

/-- A write reaches KZ_PD_CFG of domain `d` (R387). -/
def pdServed (s : State) (d : Nat) : Bool := s.env.cfg.phase && decide (d < 16)

/-- PD_ENABLE: ENABLE becomes 1 (R270). -/
def execPdEnable (d : Nat) (word : W32) (s : State) : Out :=
  let old := (s.env.regs.pd.look d).cfg
  .next (if pdServed s d && !wbit old 31 && wbit word 31 then writePdCfg s d word else s)

/-- PD_DISABLE: ENABLE becomes 0 (R271, R272). -/
def execPdDisable (d : Nat) (word : W32) (s : State) : Out :=
  let old := (s.env.regs.pd.look d).cfg
  .next (if pdServed s d && wbit old 31 && !wbit word 31 then writePdCfg s d word else s)

/-- PD_REBIND: SRC or DIV changes while ENABLE stays 1 (R271). -/
def execPdRebind (d : Nat) (word : W32) (s : State) : Out :=
  let old := (s.env.regs.pd.look d).cfg
  .next (if pdServed s d && wbit old 31 && wbit word 31 &&
      pdBinding old != pdBinding (maskWrite pdCfgMask word) then writePdCfg s d word else s)

end Sys2Proof.Machine
end

