-- ==== Sys2Proof/Machine/Ports.lean ====
section
/-! DEFINITION. The inbound window port, the clock and memory handshakes, and retention (R204-R207,
R294-R298, R309-R311, R318-R322, R404). -/

namespace Sys2Proof.Machine

open Sys2Proof

/-- The fc domain is out of reset and the start has not failed. -/
def Eng.alive (e : Eng) : Bool := e.phase != .reset && e.phase != .failed

/-! ### Inbound windows -/

/-- Base of window w (R294). -/
def winBase (v : Env) (w : Nat) : Nat :=
  let r := v.regs.win.look w
  base52 r.lo r.hi (2 ^ 12)

/-- PAGES of window w. -/
def winPages (v : Env) (w : Nat) : Nat := bits (v.regs.win.look w).size.toNat 0 20

/-- kz_iwp_in_rdy: the port takes a transaction; in quickset mode it is not held (R309). -/
def iwpReady (v : Env) (e : Eng) : Bool :=
  v.cfg.iwp && e.alive &&
  (v.ao.qs || (!e.iface.quiesce && decide (e.iwp.txs.length < 64) && e.iwp.resps.isEmpty))

/-- Every byte the transaction writes lies within window w (R295). -/
def insideWin (v : Env) (w a : Nat) (data : List (Option Byte)) : Bool :=
  (data.zip (upTo data.length)).all (fun x =>
    x.1.isNone || (decide (winBase v w ≤ a + x.2) && decide (a + x.2 < winBase v w + 4096 * winPages v w)))

/-- The check of R295. -/
def iwpAdmits (v : Env) (e : Eng) (w a : Nat) (data : List (Option Byte)) : Bool :=
  !v.ao.qs && decide (w < 32) && winPages v w != 0 && wbit e.iwp.opened w && insideWin v w a data

/-- The local writes of an accepted transaction, in ascending address, none across a 4 KiB boundary (R296,
R304). -/
def localWrites (num a sc : Nat) (data : List (Option Byte)) : List MwX :=
  let n := min data.length (4096 - a % 4096)
  let rest : List MwX := if n < data.length then [⟨0, num, (a + n) % 2 ^ 52, sc, data.drop n, false⟩] else []
  ⟨0, num, a % 2 ^ 52, sc, data.take n, false⟩ :: rest

/-- An inbound transaction accepted into its window (R296). -/
def iwpAccept (v : Env) (e : Eng) (w : BitVec 6) (a : Nat) (src : BitVec 6) (id : BitVec 16) (sc : Nat)
    (data : List (Option Byte)) : Eng :=
  let ws := localWrites e.iwp.next a sc data
  let e := e.onCnt (fun c => { c with iwpAccept := satInc c.iwpAccept 1 })
  ({ e with iwp := { e.iwp with
      txs := e.iwp.txs ++ [(⟨e.iwp.next, w, src, id, ws.length, false⟩ : IwpTx)], next := e.iwp.next + 1,
      want := e.iwp.want ++ ws } }).pumpIwp v

/-- A refused transaction: nothing written, WINDOW_CLOSED sent (R295). -/
def iwpRefuse (e : Eng) (w : BitVec 6) (src : BitVec 6) (id : BitVec 16) : Eng :=
  let e := e.onCnt (fun c => { c with iwpDrop := satInc c.iwpDrop 1 })
  { e with iwp := { e.iwp with resps := e.iwp.resps ++ [⟨src, id, 2, w⟩] } }

/-- IWP_INBOUND: one transaction of 64 (len + 1) bytes, with none for a byte whose enable is 0 (R295, R296, R308,
R309). -/
def execIwpInbound (win : BitVec 6) (addr : BitVec 52) (src : BitVec 6) (id : BitVec 16) (sc : BitVec 2)
    (data : InData) (s : State) : Out :=
  let v := s.env
  let e := s.eng
  let a := addr.toNat / 64 * 64
  let data := data.bytes.take (64 * (data.len.toNat + 1))
  .next (s.onEng
    (if !iwpReady v e then e
     else if iwpAdmits v e win.toNat a data then iwpAccept v e win a src id sc.toNat data
     else iwpRefuse e win src id))

/-- IWP_RESPONSE_ACCEPTED: the oldest waiting response is taken (R309). -/
def execIwpResponseAccepted (s : State) : Out :=
  .next (s.onEng { s.eng with iwp := { s.eng.iwp with resps := s.eng.iwp.resps.drop 1 } })

/-- IWP_OPEN_SET (R297, R387, R392). -/
def execIwpOpenSet (bits : W32) (s : State) : Out :=
  .next (s.onEng
    (if s.env.cfg.iwp && !s.eng.inReset
     then { s.eng with iwp := { s.eng.iwp with opened := s.eng.iwp.opened ||| bits } } else s.eng))

/-- IWP_OPEN_CLR (R297, R387, R392). -/
def execIwpOpenClr (bits : W32) (s : State) : Out :=
  .next (s.onEng
    (if s.env.cfg.iwp && !s.eng.inReset
     then { s.eng with iwp := { s.eng.iwp with opened := s.eng.iwp.opened &&& ~~~bits } } else s.eng))

/-! ### Clock and memory handshakes (R311, R318-R321) -/

/-- The interface levels changed. -/
def Eng.onIface (e : Eng) (f : Iface → Iface) : Eng := { e with iface := f e.iface }

/-- A slice whose test runs is stopped and cleared, one of a re-admission test too (R335). -/
def cutSlice (e : Eng) (h : Nat) : Eng :=
  e.onHr h (fun r =>
    { r with
      testCut := r.testCut || r.testRun
      turn := r.turn.map (fun t => if t.st == .running then { t with st := .clearing } else t) })

/-- The input pins changed. -/
def State.onPins (s : State) (f : Pins → Pins) : State := { s with env := { s.env with pins := f s.env.pins } }

/-- An interface level takes effect, out of reset in every state of the block (R311); while the block runs, what it
held back is issued. -/
def Eng.setIface (v : Env) (e : Eng) (f : Iface → Iface) : Eng :=
  if e.inReset then e else if e.alive then Eng.pumpAll v (e.onIface f) else e.onIface f

/-- CLK_REQ_RAISE: slices in progress stop (R321, R335). -/
def execClkReqRaise (s : State) : Out :=
  let s := s.onPins (fun p => { p with clkReq := true })
  .next (s.onEng
    (if s.eng.inReset then s.eng else (upTo 12).foldl cutSlice (s.eng.onIface (fun i => { i with clkReq := true }))))

/-- CLK_ACK_RAISE (R321 step 3). -/
def execClkAckRaise (s : State) : Out :=
  .next (s.onEng
    (if s.eng.alive && s.eng.iface.clkReq && !s.eng.iface.train && sc0Out s.eng == 0
     then s.eng.onIface (fun i => { i with clkAck := true }) else s.eng))

/-- CLK_REQ_LOWER (R321 step 5). -/
def execClkReqLower (s : State) : Out :=
  let s := s.onPins (fun p => { p with clkReq := false })
  .next (s.onEng (s.eng.setIface s.env (fun i => { i with clkReq := false, clkAck := false })))

/-- MEM_QUIESCE (R318). -/
def execMemQuiesce (level : Bool) (s : State) : Out :=
  let s := s.onPins (fun p => { p with quiesce := level })
  .next (s.onEng (s.eng.setIface s.env (fun i => { i with quiesce := level })))

/-- MEM_TRAIN (R319, R321). -/
def execMemTrain (level : Bool) (s : State) : Out :=
  let s := s.onPins (fun p => { p with train := level })
  .next (s.onEng (s.eng.setIface s.env (fun i => { i with train := level })))

/-! ### Retention (R204, R205, R207) -/

/-- A slice holds some part of a memory (R204). -/
def sliceOn (e : Eng) (h : Nat) (p : Turn → Bool) : Bool :=
  match (e.hr.look h).turn with
  | some t => t.st != .waiting && p t
  | none => false

/-- Retention of a leaf store changed. -/
def Eng.setLsRet (e : Eng) (g : Nat) (x : Ret) : Eng :=
  e.onHr (g / 8) (fun r => { r with lsRet := r.lsRet.put (g % 8) x })

/-- Retention of a hedge bank changed. -/
def Eng.setHbRet (e : Eng) (h : Nat) (x : Ret) : Eng := e.onHr h (fun r => { r with hbRet := x })

/-- LS_IDLE and HB_IDLE: 0 disables retention. -/
def lsIdle (v : Env) (h : Nat) : Nat := bits (v.regs.hr.look h).memCfg.toNat 0 16
/-- HB_IDLE. -/
def hbIdle (v : Env) (h : Nat) : Nat := bits (v.regs.hr.look h).memCfg.toNat 16 16

/-- A turn whose slice holds some part of a memory, or waits for it (R204, R207). -/
def turnOn (e : Eng) (h : Nat) (p : Target → Bool) : Bool :=
  match (e.hr.look h).turn with
  | some t => p t.tgt
  | none => false

/-- A pleacher asks its hedge bank: a SYNC polls it or has its action to make, or a row of the program is being
fetched (R204). -/
def asksBank (p : Pleacher) : Bool :=
  !p.fetch.isEmpty || (match p.wait with | .sync => true | .acting => true | _ => false)

/-- A leaf store may go to sleep: retention enabled, powered, not being cleared, held by no slice. -/
def leafIdle (v : Env) (e : Eng) (g : Nat) : Bool :=
  e.up && v.isPl g && lsIdle v (g / 8) != 0 && !v.isOff (g / 8) (groupOf g) &&
  !bitOn (e.hr.look (g / 8)).lsInit.toNat (g % 8 / 4) &&
  !turnOn e (g / 8) (fun t => t.code == 10 && t.pl == g % 8) &&
  (e.hr.look (g / 8)).lsRet.look (g % 8) == .awake

/-- A hedge bank may go to sleep. -/
def bankIdle (v : Env) (e : Eng) (h : Nat) : Bool :=
  e.up && v.isHr h && hbIdle v h != 0 && !v.isOff h 3 && !(e.hr.look h).hbInit &&
  !turnOn e h (fun t => t.code == 11) && !(upTo 8).any (fun p => asksBank (e.pl.look (8 * h + p))) &&
  (e.hr.look h).hbRet == .awake

/-- RETENTION_ENTRY (R204, R205). -/
def execRetentionEntry (m : RetMem) (s : State) : Out :=
  .next (s.onEng
    (match m with
     | .leaf g => if leafIdle s.env s.eng g then s.eng.setLsRet g .retained else s.eng
     | .bank h => if bankIdle s.env s.eng h then s.eng.setHbRet h .retained else s.eng))

/-- RETENTION_WAKE_DONE: the memory serves requests again, and built-in programs that waited for it go on
(R205). -/
def execRetentionWakeDone (m : RetMem) (s : State) : Out :=
  .next (s.onEng
    (match m with
     | .leaf g =>
       if (s.eng.hr.look (g / 8)).lsRet.look (g % 8) == .waking
       then (s.eng.setLsRet g .awake).advanceHr s.env (g / 8) else s.eng
     | .bank h =>
       if (s.eng.hr.look h).hbRet == .waking then (s.eng.setHbRet h .awake).advanceHr s.env h else s.eng))

end Sys2Proof.Machine
end

