-- ==== Sys2Proof/Machine/Repair.lean ====
section
/-! DEFINITION. Repair words, the repair log, spare rows and the spare pleacher (R336, R337, R339-R343). -/

namespace Sys2Proof.Machine

open Sys2Proof

/-! ### Repair words (R340) -/

/-- A repair word's fields. -/
structure RepairWord where
  kind : Nat
  hr : Nat
  pl : Nat
  spare : Nat
  bank : Nat
  row : Nat
  deriving DecidableEq, Repr, Inhabited

/-- The fields of a word; UNREPAIRED is ignored on input. -/
def parseRepair (w : W32) : RepairWord :=
  let k := fld w 31 28
  ⟨if k ≤ 3 then k else 0, fld w 27 24, fld w 23 21, fld w 20 18, fld w 17 13, fld w 9 0⟩

/-- The word of a log entry. -/
def logWord (w : RepairWord) (unrepaired : Bool) : W32 :=
  ofFields [(28, w.kind), (24, w.hr), (21, w.pl), (18, w.spare), (13, w.bank), (12, flag unrepaired), (0, w.row)]

/-- An entry of the repair log; a full log loses it (R343). -/
def Rep.note (r : Rep) (w : W32) : Rep :=
  if r.log.length < 64 then { r with log := r.log ++ [w] } else { r with logLost := true }

/-- Repair state of one leaf store changed. -/
def Rep.onLeaf (r : Rep) (g : Nat) (f : LeafRep → LeafRep) : Rep := { r with leaf := r.leaf.upd g f }

/-- Repair state of one hedgerow changed. -/
def Rep.onHr (r : Rep) (h : Nat) (f : HrRep → HrRep) : Rep := { r with hr := r.hr.upd h f }

/-- The repair state changed. -/
def State.onRep (s : State) (f : Rep → Rep) : State := { s with env := { s.env with rep := f s.env.rep } }

/-! ### Rows (R336) -/

/-- Spare `x` of a leaf store in place of row `row`; an earlier use of either ends (R341). A row whose spare goes to
another row keeps its latest bytes, since memory is kept by logical rows (log 90). -/
def LeafRep.mapTo (r : LeafRep) (x row : Nat) : LeafRep :=
  { r with map := (x, row) :: r.map.filter (fun p => p.1 != x && p.2 != row) }

/-- The spare of a bank in place of physical row `row` (R341); the row it served before keeps its bytes (log 90). -/
def HrRep.mapTo (r : HrRep) (bank row : Nat) : HrRep :=
  { r with map := (bank, row) :: r.map.filter (fun p => p.1 != bank) }

/-- A mapped spare that fails is marked failed and its row is free to be mapped again (R336). -/
def LeafRep.dropSpare (r : LeafRep) (row : Nat) : LeafRep :=
  match r.map.find? (fun p => p.2 == row) with
  | some p => { r with bad := p.1 :: r.bad, map := r.map.filter (fun q => q.2 != row) }
  | none => r

/-- A bank's spare that fails is marked failed (R336). -/
def HrRep.dropSpare (r : HrRep) (bank row : Nat) : HrRep :=
  if r.map.contains (bank, row)
  then { r with bad := bank :: r.bad, map := r.map.filter (fun q => q != (bank, row)) } else r

/-- The lowest-numbered spare row that is neither mapped nor failed (R336). -/
def LeafRep.freeSpare (r : LeafRep) : Option Nat :=
  (upTo 8).find? (fun x => !r.bad.contains x && !r.map.any (fun p => p.1 == x))

/-- A failing leaf-store row is mapped to a spare, or its unit is FAILED and kz_err is raised (R336); the log entry of a
row that got no spare has SPARE = 0 (log 91). -/
def repairLeafRow (s : State) (g row : Nat) : State :=
  let word (x : Nat) : RepairWord := ⟨1, g / 8, g % 8, x, 0, row⟩
  let s := s.onRep (fun r => r.onLeaf g (fun l => l.dropSpare row))
  match (s.env.rep.leaf.look g).freeSpare with
  | some x => s.onRep (fun r => (r.onLeaf g (fun l => l.mapTo x row)).note (logWord (word x) false))
  | none =>
    (s.onRep (fun r =>
      (r.onLeaf g (fun l => { l with failed := l.failed ||| BitVec.ofNat 12 (2 ^ (row / 64)) })).note
        (logWord (word 0) true))).onEng (s.eng.err 7)

/-- A failing hedge-bank row is mapped to its bank's spare, or its segment is FAILED (R336). -/
def repairBankRow (s : State) (h bank row : Nat) : State :=
  let word : RepairWord := ⟨2, h, 0, 0, bank, row⟩
  let s := s.onRep (fun r => r.onHr h (fun x => x.dropSpare bank row))
  let x := s.env.rep.hr.look h
  if !x.bad.contains bank && !x.map.any (fun p => p.1 == bank) then
    s.onRep (fun r => (r.onHr h (fun x => x.mapTo bank row)).note (logWord word false))
  else
    (s.onRep (fun r =>
      (r.onHr h (fun x => { x with failed := x.failed ||| BitVec.ofNat 16 (2 ^ (row / 8)) })).note
        (logWord word true))).onEng (s.eng.err 7)

/-- A failing leaf-store row of an array test; from 768 on a spare: a mapped one's original row is mapped again, an
unmapped one is marked failed (R325, R336, R354). -/
def repairLeafAt (s : State) (g row : Nat) : State :=
  if row < 768 then repairLeafRow s g row
  else
    match (s.env.rep.leaf.look g).map.find? (fun p => p.1 == row - 768) with
    | some p => repairLeafRow s g p.2
    | none => s.onRep (fun r => r.onLeaf g (fun l => { l with bad := addUnit l.bad (row - 768) }))

/-- A failing hedge-bank row of an array test; 128 is the bank's spare (R325, R336, R354). -/
def repairBankAt (s : State) (h bank row : Nat) : State :=
  if row < 128 then repairBankRow s h bank row
  else
    match (s.env.rep.hr.look h).map.find? (fun p => p.1 == bank) with
    | some p => repairBankRow s h bank p.2
    | none => s.onRep (fun r => r.onHr h (fun x => { x with bad := addUnit x.bad bank }))

/-- Failing rows of leaf stores, by pleacher and ascending row (R336). -/
def leafOrder (rows : List (Nat × Nat)) : List (Nat × Nat) :=
  ((rows.map (fun x => 1024 * x.1 + x.2)).foldl addUnit []).map (fun k => (k / 1024, k % 1024))

/-- Failing rows of hedge banks, by hedgerow, ascending physical row and then bank (R336). -/
def bankOrder (rows : List (Nat × Nat × Nat)) : List (Nat × Nat × Nat) :=
  ((rows.map (fun x => 8192 * x.1 + 32 * x.2.2 + x.2.1)).foldl addUnit []).map
    (fun k => (k / 8192, k % 32, k % 8192 / 32))

/-- A privet line that does not read as zero; the first one's number is held (R339), from a clear of PV_FAIL on the
first one after it (log 92). -/
def privetLineFails (s : State) (line : Nat) : State :=
  s.onRep (fun r => if r.pvFail then r else { r with pvFail := true, pvLine := BitVec.ofNat 12 line })

/-! ### The spare pleacher (R337) -/

/-- The hedgerow's spare is unused. -/
def spareUnused (s : State) (h : Nat) : Bool := (s.env.rep.hr.look h).spare == 1

/-- The spare takes the number h.p, and its route cache is invalidated (R105, R337). -/
def spareTakes (s : State) (h p : Nat) : State :=
  (s.onRep (fun r => r.onHr h (fun x => { x with spare := 2, spareFor := BitVec.ofNat 3 p }))).onEng
    (s.eng.onPl (8 * h + p) (fun x => { x with routes := [] }))

/-- The spare is mapped in place of a failed pleacher, with a log entry (R337). -/
def mapSpare (s : State) (h p : Nat) : State :=
  (spareTakes s h p).onRep (fun r => r.note (logWord ⟨3, h, p, 0, 0, 0⟩ false))

/-- The unused spare fails: SPARE becomes 3 and kz_err is raised (R337). -/
def spareFails (s : State) (h : Nat) : State :=
  (s.onRep (fun r => r.onHr h (fun x => { x with spare := 3 }))).onEng (s.eng.err 7)

/-- A pleacher's bit of PL_FAIL set. -/
def Eng.plFailed (e : Eng) (h p : Nat) : Eng :=
  e.onHr h (fun r => { r with plFail := r.plFail ||| BitVec.ofNat 8 (2 ^ p) })

/-! ### Words from the fuse box and from the driver (R341, R342) -/

/-- A word that R341 does not ignore. -/
def repairNames (v : Env) (w : RepairWord) : Bool :=
  v.isHr w.hr &&
  (match w.kind with
   | 1 => decide (w.row < 768)
   | 2 => decide (w.row < 128)
   | 3 => !v.cfg.large
   | _ => false)

/-- A word applied as a mapping; a later word stands over an earlier one (R341). -/
def applyRepair (s : State) (w : RepairWord) : State :=
  if !repairNames s.env w then s
  else
    match w.kind with
    | 1 => s.onRep (fun r => r.onLeaf (8 * w.hr + w.pl) (fun l => l.mapTo w.spare w.row))
    | 2 => s.onRep (fun r => r.onHr w.hr (fun x => x.mapTo w.bank w.row))
    | _ => spareTakes s w.hr w.pl

/-- SOFT_REPAIR: applied while its hedgerow is stopped or fenced; the row's contents go with it (R28, R342,
R392). -/
def execSoftRepair (word : W32) (s : State) : Out :=
  let w := parseRepair word
  .next (if s.eng.alive && (hrIsStopped s.eng w.hr || hrIsFenced s.eng w.hr) then applyRepair s w else s)

/-- REPAIR_LOG_READ: the oldest entry is driven on kz_mp_rdata and removed; an empty log reads 0 (R301, R343,
R390). -/
def execRepairLogRead (s : State) : Out :=
  .next { s with env := { s.env with
    rep := { s.env.rep with log := s.env.rep.log.drop 1 }, rdata := nth s.env.rep.log 0 0 } }

end Sys2Proof.Machine
end

