-- ==== Sys2Proof/Machine/Service.lean ====
section
/-! DEFINITION. Running and stopping the block and its hedgerows, fences, disagreement, re-admission and
power domains (R345-R350, R357, R361-R368). -/

namespace Sys2Proof.Machine

open Sys2Proof

/-! ### Power requests (R367, R368) -/

/-- The OFF bit of a domain in KZ_HR_PWR; it has no effect in quickset mode (R360). -/
def offBit (v : Env) (h k : Nat) : Bool := !v.ao.qs && wbit (v.regs.hr.look h).pwr k

/-- A domain outside quickset mode's units (R360). -/
def qsRemoves (h k : Nat) : Bool := h != 0 || k == 2

/-- A disagreement drain has ended and no re-admission is under way (R348). -/
def disagreeEnded (e : Eng) (h : Nat) : Bool :=
  (e.hr.look h).fenceCause == 4 && !(e.hr.look h).draining && !(e.hr.look h).testing

/-- The condition under which a domain is requested powered down (R367). -/
def wantsOff (v : Env) (e : Eng) (h k : Nat) : Bool :=
  (v.ao.qs && qsRemoves h k) || (hrIsStopped e h && offBit v h k) || (k == 0 && disagreeEnded e h)

/-- kz_pwr_req of a domain changed. -/
def Env.setReq (v : Env) (h k : Nat) (b : Bool) : Env :=
  let w := BitVec.ofNat 4 (2 ^ k)
  { v with pins := { v.pins with pwrReq := v.pins.pwrReq.upd h (fun x => if b then x ||| w else x &&& ~~~w) } }

/-- The requests of a hedgerow whose condition no longer holds are lowered (R368). -/
def lowerReqs (e : Eng) (h : Nat) (v : Env) : Env :=
  (upTo 4).foldl (fun v k => if v.reqBit h k && !wantsOff v e h k then v.setReq h k false else v) v

/-- The requests of every hedgerow brought up to date; none changes during a start (R354). -/
def State.relax (s : State) : State :=
  if s.eng.up then s.onEnv ((upTo s.env.cfg.hedgerows).foldl (fun v h => lowerReqs s.eng h v) s.env) else s

/-- A slice that holds a domain: a logic slice or a re-admission test the logic, a memory slice its memory too
(R335, R368). -/
def sliceHoldsDomain (e : Eng) (h k : Nat) : Bool :=
  (k == 0 && (e.hr.look h).testRun) || sliceOn e h (fun t =>
    if t.tgt.code == 10 then k == 1 + t.tgt.pl / 4 || k == 0
    else if t.tgt.code == 11 then k == 3 || k == 0 else k == 0)

/-- The memories of a hedgerow whose logic is off and which stay powered are held in retention (R205,
R367). -/
def retainAll (v : Env) (h : Nat) (r : Hedgerow) : Hedgerow :=
  { r with
    lsRet := Vector.ofFn (fun (p : Fin 8) => if v.isOff h (groupOf p.val) then Ret.awake else Ret.retained)
    hbRet := if v.isOff h 3 then Ret.awake else Ret.retained }

/-- A domain is clamped (R348, R368 step 2). A powered-down memory is in no retention (R404). -/
def clampDomain (v : Env) (e : Eng) (h k : Nat) : Eng :=
  match k with
  | 0 => (e.onHr h (fun r => { retainAll v h r with logicOff := true })).dropRoutes h
  | 3 => e.onHr h (fun r => { r with hbRet := .awake })
  | k => e.onHr h (fun r =>
      { r with lsRet := (upTo 4).foldl (fun t p => t.put (4 * (k - 1) + p) .awake) r.lsRet })

/-- POWER_DOWN_REQUEST (R367, R368): it waits while a slice holds the domain (R335). -/
def execPowerDownRequest (h k : Nat) (s : State) : Out :=
  let v := s.env
  let e := s.eng
  .next
    (if !e.up || !v.isHr h || 4 ≤ k || v.reqBit h k || !wantsOff v e h k || sliceHoldsDomain e h k then s
     else
       let v := v.setReq h k true
       (s.onEnv v).onEng (clampDomain v e h k))

/-- A hedgerow whose START waited returns to service (R364). -/
def returnService (v : Env) (e : Eng) (h : Nat) : Eng :=
  if (e.hr.look h).starting && !hrIsFenced e h && ready v e h && !v.isOff h 0 && !v.isOff h 3 && e.phase == .running
  then e.onHr h (fun r => { r with starting := false, mgmtIn := true }) else e

/-! ### Fences and disagreement (R345-R348) -/

/-- An ending status for every job of a hedgerow, whose comparator entries are freed (R346, R364). -/
def Eng.endJobs (v : Env) (e : Eng) (h : Nat) (st : Status) : Eng :=
  (e.ariseAll v (e.jobsOf h) st).shut (fun j => j.g / 8 == h)

/-- A fence for a cause other than DISAGREE (R346). A SLICE_FORCED fence keeps its turn (R330). -/
def Eng.fence (v : Env) (e : Eng) (h : Nat) (cause : BitVec 3) : Eng :=
  let e := if cause == 3
    then e.onHr h (fun r => { r with mgmtIn := false, turn := r.turn.map (fun t => { t with forced := true }) })
    else e.mgmtOut h
  let e := e.onHr h (fun r => { r with draining := true, fenceCause := cause, starting := false })
  let e := (e.endJobs v h .fencedUnit).dropRoutes h
  (e.err 5).errOf h

/-- READY falls while MGMT_IN is 1: the hedgerow is fenced, and its route caches are invalidated as by every
fencing (R105, R348; log 43). -/
def Eng.disagree (e : Eng) (h : Nat) : Eng :=
  if (e.hr.look h).mgmtIn then
    ((((e.mgmtOut h).onHr h (fun r =>
      { r with draining := true, fenceCause := 4, starting := false })).dropRoutes h).err 6).errOf h
  else e

/-- DRIVER_FENCE (R345). -/
def execDriverFence (h : Tied Nat) (s : State) : Out :=
  .next (s.onEng
    (if inService s.env s.eng h.val then s.eng.tied h.tie (fun e => (e.fence s.env h.val 5).settle s.env) else s.eng))

/-- PARITY_ERROR: latched until re-admission (R348). -/
def execParityError (h : Nat) (s : State) : Out :=
  .next (s.onEng
    (if s.eng.alive && s.env.isHr h
     then ((s.eng.onHr h (fun r => { r with parity := true })).disagree h).settle s.env else s.eng))

/-- FENCE_DRAIN_COMPLETE: the hedgerow's last job has ended (R346, R348). -/
def execFenceDrainComplete (h : Nat) (s : State) : Out :=
  .next (s.onEng
    (if (s.eng.hr.look h).draining && !s.eng.busy h then s.eng.onHr h (fun r => { r with draining := false })
     else s.eng))

/-! ### The power controller's answer (R348, R354, R368) -/

/-- Every domain the start uses is powered (R354). -/
def powerReady (v : Env) : Bool :=
  (upTo v.cfg.hedgerows).all (fun h => (upTo 4).all (fun k => (v.ao.qs && qsRemoves h k) || !v.ackBit h k))

/-- A domain's supply is back: logic is reset, a memory is cleared (R208, R368). -/
def powerUp (v : Env) (e : Eng) (h k : Nat) : Eng :=
  match k with
  | 0 =>
    let e := (e.onHr h (fun r => { r with logicOff := false })).dropRoutes h
    returnService v ((upTo 8).foldl (fun e p => e.zeroTiles (8 * h + p)) e) h
  | 3 => returnService v (e.onHr h (fun r => { r with hbInit := true, hbRet := .awake })) h
  | k => e.onHr h (fun r => { r with lsInit := r.lsInit ||| BitVec.ofNat 2 (2 ^ (k - 1)) })

/-- kz_pwr_ack of a domain changed. -/
def Env.setAck (v : Env) (h k : Nat) (b : Bool) : Env :=
  let w := BitVec.ofNat 4 (2 ^ k)
  { v with pins := { v.pins with pwrAck := v.pins.pwrAck.upd h (fun x => if b then x ||| w else x &&& ~~~w) } }

/-- PWR_ACK (R348, R354, R368). An announced withdrawal that is taken back leaves the logic as it is. A request that
was lowered before its acknowledgement keeps its domain clamped until kz_pwr_ack has risen and fallen (log 87). -/
def execPwrAck (h k : Nat) (level : Bool) (s : State) : Out :=
  let v := s.env.setAck h k level
  let e := s.eng
  .next
    (if !s.env.isHr h || 4 ≤ k || s.env.ackBit h k == level then s
     else
       (s.onEnv v).onEng
         (if e.phase == .power then (if powerReady v then { e with phase := .logic } else e)
          else if !e.up then e
          else if level then (if k == 0 && !v.reqBit h 0 then (e.disagree h).settle v else e)
          else if v.reqBit h k then e
          else if k == 0 && !(e.hr.look h).logicOff then returnService v e h
          else powerUp v e h k))

/-- The leaf stores of a group, zeroed. -/
def clearGroup (m : Mems) (h k : Nat) : Mems :=
  (upTo 4).foldl (fun m p => m.clearLeaf (8 * h + 4 * (k - 1) + p)) m

/-- Retention of a memory that has been cleared: it is held in it while its hedgerow's logic is off (R205, R367). -/
def clearedRet (e : Eng) (h : Nat) : Ret := if (e.hr.look h).logicOff then .retained else .awake

/-- MEMORY_CLEAR_DONE (R208): the memory holds zeros and serves requests; built-in programs that waited for
it go on. -/
def execMemoryClearDone (h k : Nat) (s : State) : Out :=
  let e := s.eng
  let ret := clearedRet e h
  .next (s.onEng
    (match k with
     | 3 =>
       if (e.hr.look h).hbInit
       then
         ((e.onHr h (fun r => { r with hbInit := false, hbRet := ret })).onMem (fun m => m.clearBank h)).advanceHr s.env h
       else e
     | 0 => e
     | k =>
       if 3 < k || !bitOn (e.hr.look h).lsInit.toNat (k - 1) then e
       else
         ((e.onHr h (fun r =>
            { r with
              lsInit := r.lsInit &&& ~~~(BitVec.ofNat 2 (2 ^ (k - 1)))
              lsRet := (upTo 4).foldl (fun t p => t.put (4 * (k - 1) + p) ret) r.lsRet })).onMem
           (fun m => clearGroup m h k)).advanceHr s.env h))

/-! ### Running and stopping (R357, R358, R362-R364) -/

/-- RUN: the block enters RUNNING, its first poll tick begins, and the start has succeeded (R218, R357,
R358, R363). A hedgerow that RUN puts into service waits for no START any more (R364). -/
def execRun (s : State) : Out :=
  .next
    (if s.eng.phase != .stopped then s
     else
       let fit (h : Nat) (r : Hedgerow) : Bool :=
         s.env.isHr h && !r.stopped && !r.stopping && r.fenceCause == 0 && ready s.env s.eng h
       let e := { s.eng with
         phase := .running, stop := none, left := false, ctl := [],
         hr := Vector.ofFn (fun (i : Fin 12) =>
           let r := s.eng.hr.look i.val
           { r with mgmtIn := r.mgmtIn || fit i.val r, starting := r.starting && !(r.mgmtIn || fit i.val r) }) }
       let ao := s.env.ao
       let ao := { ao with unresolved := false, fails := if ao.qs then ao.fails else 0 }
       ({ s with env := { s.env with ao := ao }, eng := beginTick s.env e }).relax)

/-- DRAINING_STOP (R362). -/
def execDrainingStop (s : State) : Out :=
  .next (s.onEng
    (if s.eng.phase != .running then s.eng
     else { s.eng with stop := some (s.eng.stop != some false) }.settle s.env))

/-- ABORTIVE_STOP (R362): every job ends in the manner of R346. Whether it falls in the cycle of the latest ending
status is free (R238, log 77). -/
def execAbortiveStop (s : State) : Out :=
  let v := s.env
  .next (s.onEng
    (if s.eng.phase != .running then s.eng
     else
       (s.eng.draw 1).tied (Config.freeTie s.eng.free) (fun e =>
         let e := { e with stop := some false }.allOut.meetEnds .abortedStop
         ((e.endAll v (e.jobs.map Job.key) (e.hed.queue.filter (fun q => q.handed)) .abortedStop).shut
           (fun _ => true)).settle v)))

/-- Nothing of a stopping block is left (R362, log 28). -/
def stopDone (e : Eng) : Bool :=
  e.hed.tick.isNone && e.hed.queue.isEmpty && e.jobs.isEmpty && e.hed.ends.isEmpty && e.hed.cfpWant.isEmpty &&
  e.hed.cfpOut.all (fun x => x.timedOut)

/-- BLOCK_STOPPED (R362). -/
def execBlockStopped (s : State) : Out :=
  .next
    (if s.eng.phase == .running && s.eng.stop.isSome && stopDone s.eng
     then s.onEng { s.eng.leaveAll with phase := .stopped, stop := none, left := false } else s)

/-- A stop of one hedgerow; a fenced one is only marked STOPPED (R364), and a test of its slices stops (R335, log 42);
the turn that forced its fence stays (R349). -/
def stopHr (e : Eng) (h : Nat) : Eng :=
  if hrIsFenced e h then (e.haltSlice h).onHr h (fun r => { r with stopped := true, starting := false })
  else (e.mgmtOut h).onHr h (fun r => { r with stopping := !r.stopped, starting := false })

/-- HR_DRAINING_STOP (R364). -/
def execHrDrainingStop (h : Nat) (s : State) : Out :=
  .next (s.onEng (if s.eng.alive && s.env.isHr h then stopHr s.eng h else s.eng))

/-- HR_ABORTIVE_STOP (R364). -/
def execHrAbortiveStop (h : Tied Nat) (s : State) : Out :=
  .next (s.onEng
    (if !s.eng.alive || !s.env.isHr h.val then s.eng
     else if hrIsFenced s.eng h.val then stopHr s.eng h.val
     else s.eng.tied h.tie (fun e => ((stopHr e h.val).endJobs s.env h.val .abortedStop).settle s.env)))

/-- HR_STOPPED: no job holds a slot of the stopping hedgerow (R364). -/
def execHrStopped (h : Nat) (s : State) : Out :=
  .next (s.onEng
    (if (s.eng.hr.look h).stopping && (s.eng.jobsOf h).isEmpty
     then s.eng.onHr h (fun r => { r with stopping := false, stopped := true }) else s.eng))

/-- HR_START: the stop ends, power requests that depended on it are lowered, and the hedgerow returns to
service once it can (R364, R367). -/
def execHrStart (h : Nat) (s : State) : Out :=
  .next
    (if !s.eng.alive || !s.env.isHr h || offBit s.env h 0 || offBit s.env h 3 then s
     else
       let e := s.eng.onHr h (fun r =>
         { r with stopped := false, stopping := false, starting := !r.mgmtIn && r.fenceCause == 0 })
       let s := (s.onEng e).relax
       s.onEng (returnService s.env s.eng h))

/-! ### Re-admission (R350) -/

/-- The operating point is inside the slice range and no change of fc is asked for (R327). -/
def opptOk (v : Env) (e : Eng) : Bool :=
  let mhz := fld v.regs.bistOppt 11 0
  let mv := fld v.regs.bistOppt 27 16
  decide (600 ≤ mhz) && decide (mhz ≤ 1250) && decide (810 ≤ mv) && decide (mv ≤ 890) && !e.iface.clkReq

/-- READMIT: the parity latch clears and the test waits for READY (R348, R350 steps 1 and 2). -/
def execReadmit (h : Nat) (s : State) : Out :=
  .next
    (if s.eng.alive && s.env.isHr h && hrIsFenced s.eng h && !(s.eng.hr.look h).draining &&
        !(s.eng.hr.look h).testing
     then (s.onEng (s.eng.onHr h (fun r => { r with testing := true, parity := false }))).relax else s)

/-- READMIT_TEST_START (R350 steps 2 and 3). The slices run in quickset mode too (log 85), and TESTING that was set
while a forced slice ran stays, so that the test runs although that fence has ended (log 82). -/
def execReadmitTestStart (h : Nat) (s : State) : Out :=
  let e := s.eng
  let r := e.hr.look h
  .next (s.onEng
    (if !r.testing || r.testRun || !ready s.env e h || r.turn.isSome then e
     else if opptOk s.env e then e.onHr h (fun r => { r with testRun := true, testCut := false })
     else e.onHr h (fun r => { r with readmitRes := 4, testing := false })))

/-- Results of R334. -/
inductive SliceRes
  | pass | fail | incomplete
  deriving DecidableEq, Repr, Inhabited

/-- The result of a slice (R334). -/
def sliceResult (o : SliceObs) : SliceRes :=
  if !o.full then .incomplete else if o.sig then .pass else .fail

/-- A result counted (R334). -/
def countResult (e : Eng) (h : Nat) (r : SliceRes) : Eng :=
  e.onHrCnt h (fun c =>
    match r with
    | .pass => { c with bistPass := satInc c.bistPass 1 }
    | .fail => { c with bistFail := satInc c.bistFail 1 }
    | .incomplete => { c with bistInc := satInc c.bistInc 1 })

/-- A test of every pleacher: a failing one sets PL_FAIL, and the first one found while the spare is unused
is replaced by it and judged by the spare's own result (R337, R350 step 3). -/
def testPleachers (h : Nat) (pl : Tab SliceObs 8) (spare : SliceObs) :
    List Nat → State → List SliceRes → State × List SliceRes
  | [], s, rs => (s, rs)
  | p :: ps, s, rs =>
    let r := sliceResult (pl[p]?.getD spare)
    let s := s.onEng (countResult s.eng h r)
    if r == .fail then
      let s := s.onEng (s.eng.plFailed h p)
      if spareUnused s h then
        let s := mapSpare s h p
        let s := s.onEng (countResult s.eng h (sliceResult spare))
        testPleachers h pl spare ps s ((sliceResult spare) :: rs)
      else testPleachers h pl spare ps s (r :: rs)
    else testPleachers h pl spare ps s (r :: rs)

/-- A hedgerow leaves its fence: MGMT_IN becomes 1 while the block runs and the hedgerow is not stopped
(R349, R350 step 5). -/
def unfence (e : Eng) (h : Nat) : Eng :=
  e.onHr h (fun r => { r with fenceCause := 0, mgmtIn := e.phase == .running && !r.stopped })

/-- The observation of a slice of a test that was stopped (R335). -/
def cutObs (cut : Bool) (o : SliceObs) : SliceObs := if cut then { o with full := false } else o

/-- The slices of a re-admission test with their results: the comparator's, then those of all pleachers, then the
spare's (R350 step 3). `cut` says which of the three parts a stop met: slices of the parts before it had ended, its own
are INCOMPLETE, and those after it do not run (R335, log 42). -/
def readmitSlices (s : State) (h : Nat) (cut : Option Nat) (cmp : SliceObs) (pl : Tab SliceObs 8) (spare : SliceObs) :
    State × List SliceRes :=
  let res := sliceResult (cutObs (cut == some 0) cmp)
  let s := s.onEng (countResult s.eng h res)
  if cut == some 0 then (s, [res])
  else testPleachers h (pl.map (cutObs (cut == some 1))) (cutObs cut.isSome spare) (upTo 8) s [res]

/-- The end of a re-admission test (R350 steps 3 to 5). Where its slices were stopped, how far it had come only the
clock says (log 42). A failing slice keeps the cause of the fence (log 83), and FAIL stands over INCOMPLETE (log 84). -/
def readmitEnd (s : State) (h : Nat) (cmp : SliceObs) (pl : Tab SliceObs 8) (spare : SliceObs) : State :=
  let cut := (s.eng.hr.look h).testCut
  let part := Config.freeCount s.eng.free % 3
  let s := if cut then s.onEng (s.eng.draw 1) else s
  let x := readmitSlices s h (if cut then some part else none) cmp pl spare
  let s := x.1
  let e := (((upTo 8).foldl (fun e p => e.zeroTiles (8 * h + p)) s.eng).dropRoutes h).onHr h
    (fun r => { r with testing := false, testRun := false, testCut := false })
  if x.2.all (fun r => r == .pass) then
    s.onEng ((unfence (e.onHr h (fun r => { r with plFail := 0, readmitRes := 1 })) h).settle s.env)
  else s.onEng (e.onHr h (fun r => { r with readmitRes := if x.2.contains .fail then 2 else 3 }))

/-- READMIT_TEST_END (R350). -/
def execReadmitTestEnd (h : Nat) (cmp : SliceObs) (pl : Tab SliceObs 8) (spare : SliceObs) (s : State) : Out :=
  .next (if (s.eng.hr.look h).testRun then readmitEnd s h cmp pl spare else s)

end Sys2Proof.Machine
end

