-- ==== Sys2Proof/Machine/Bist.lean ====
section
/-! DEFINITION. Coppice slices: turns, borrowing, reclaim, results and what they cause (R324-R339, R349). -/

namespace Sys2Proof.Machine

open Sys2Proof

/-! ### Targets (R324, R326, R331) -/

/-- Places of a round: the comparator, pleachers 0-7, the spare, 96 leaf-store units, 16 segments. -/
def roundLength : Nat := 122

/-- The target at a place of a round (R326). -/
def targetAt (n : Nat) : Target :=
  if n == 0 then ⟨9, 0, 0⟩
  else if n ≤ 8 then ⟨n - 1, 0, 0⟩
  else if n == 9 then ⟨8, 0, 0⟩
  else if n < 106 then ⟨10, (n - 10) / 12, (n - 10) % 12⟩
  else ⟨11, 0, n - 106⟩

/-- A page of the semaphore window (R198). -/
def semPage (v : Env) (h page : Nat) : Bool :=
  let w := (v.regs.hr.look h).semWin.toNat
  decide (bits w 0 8 ≤ page) && decide (page < bits w 0 8 + min 256 (bits w 16 9))

/-- The lent pages of a segment (R331). -/
def lentPages (v : Env) (h seg : Nat) : List Nat :=
  if wbit (v.regs.hr.look h).lendHb seg then
    ((upTo 16).map (fun i => 16 * seg + i)).filter (fun page => !semPage v h page)
  else []

/-- A target that has a turn: not passed over because it is absent, not lendable, FAILED or powered down
(R326). -/
def hasTurn (v : Env) (h : Nat) (t : Target) : Bool :=
  if t.code ≤ 7 || t.code == 9 then true
  else if t.code == 8 then (v.rep.hr.look h).spare == 1
  else if t.code == 10 then
    (v.regs.lend.look (8 * h + t.pl)).toNat.testBit t.unit &&
    !(v.rep.leaf.look (8 * h + t.pl)).failed.toNat.testBit t.unit && !v.isOff h (groupOf t.pl)
  else !(lentPages v h t.unit).isEmpty && !(v.rep.hr.look h).failed.toNat.testBit t.unit && !v.isOff h 3

/-- The next place of a round with a turn, from `n` on. -/
def nextPlace (v : Env) (h n : Nat) : Nat :=
  (((upTo roundLength).map (fun i => (n + i) % roundLength)).find? (fun i => hasTurn v h (targetAt i))).getD 0

/-! ### The end of a turn -/

/-- KZ_HR_BIST_LAST (R326). -/
def bistLast (res : Nat) (t : Target) (reclaim forced : Bool) : W32 :=
  ofFields [(28, res), (27, flag reclaim), (26, flag forced), (16, t.code),
    (12, if t.code == 10 then t.pl else 0), (8, if t.code == 10 || t.code == 11 then t.unit else 0)]

/-- A turn ends with its result recorded (R326). -/
def endTurn (e : Eng) (h res : Nat) (t : Target) (reclaim forced : Bool) : Eng :=
  e.onHr h (fun r => { r with turn := none, bistLast := bistLast res t reclaim forced })

/-- A turn ends SKIPPED (R328, R329). -/
def skipTurn (e : Eng) (h : Nat) (t : Target) : Eng :=
  (endTurn e h 5 t false false).onHrCnt h (fun c => { c with bistSkip := satInc c.bistSkip 1 })

/-! ### Turns (R326-R330) -/

/-- Some slot of a pleacher holds a phase-bound job whose window is open (R328). -/
def openOn (e : Eng) (g : Nat) : Bool :=
  e.jobs.any (fun j => j.g == g && j.st != .ended && j.windowOpen)

/-- A turn begins for a target that passed the checks. -/
def beginTurn (v : Env) (e : Eng) (h : Nat) (t : Target) : Eng :=
  if t.code ≤ 7 && openOn e (8 * h + t.code) then skipTurn e h t
  else
    let pages := if t.code == 11 then lentPages v h t.unit else []
    let holder := if t.code == 9 then lowest (cmpDomains e h) else none
    e.onHr h (fun r => { r with turn := some ⟨t, .waiting, pages, holder, 0, false, false⟩ })

/-- BIST_TURN: the next target's turn begins, or ends with BIST_OUT_OF_RANGE or SKIPPED (R326-R328,
R330). A round goes on where it stood when ENABLE is set again or the hedgerow is re-admitted (log 88). -/
def execBistTurn (h : Nat) (s : State) : Out :=
  let v := s.env
  let e := s.eng
  let r := e.hr.look h
  .next (s.onEng
    (if !wbit v.regs.bistCfg 31 || !inService v e h || v.ao.qs || r.turn.isSome || r.testing then e
     else
       let n := nextPlace v h r.nextTgt
       let t := targetAt n
       let e := e.onHr h (fun r => { r with nextTgt := (n + 1) % roundLength })
       if opptOk v e then beginTurn v e h t else endTurn e h 4 t false false))

/-! ### The start of a slice (R207, R328, R330, R331) -/

/-- The slice's target runs. -/
def runSlice (e : Eng) (h : Nat) : Eng :=
  e.onHr h (fun r => { r with turn := r.turn.map (fun t => { t with st := .running }) })

/-- A slice of a memory first wakes it (R207). -/
def memorySlice (e : Eng) (h : Nat) (off init : Bool) (ret : Ret) (set : Ret → Eng) : Eng :=
  if off || init then e
  else
    match ret with
    | .retained => set .waking
    | .waking => e
    | .awake => runSlice e h

/-- A turn whose target can no longer be borrowed ends without a result (log 42). -/
def dropTurn (e : Eng) (h : Nat) : Eng := e.onHr h (fun r => { r with turn := none })

/-- A memory slice borrows the lendable part of its target that is not FAILED, as it stands now (R331). -/
def borrow (v : Env) (e : Eng) (h : Nat) (t : Target) : Eng :=
  e.onHr h (fun r => { r with turn := r.turn.map (fun x =>
    { x with pages := if t.code == 11 then lentPages v h t.unit else x.pages }) })

/-- SLICE_START: the target has been freed or borrowed (R207, R328, R330, R331, R349, log 44). Once the holding
domain has wrapped 64 times, the comparator is taken by a fence alone (R330). -/
def execSliceStart (h : Nat) (s : State) : Out :=
  let v := s.env
  let e := s.eng
  .next (s.onEng
    (match (e.hr.look h).turn with
     | none => e
     | some t =>
       if t.st != .waiting || !opptOk v e then e
       else if t.tgt.code ≤ 7 then
         (let g := 8 * h + t.tgt.code
          if (e.pl.look g).phase == .idle && savedOut e g then runSlice e h else e)
       else if t.tgt.code == 8 then runSlice e h
       else if t.tgt.code == 9 then
         (if t.forced then (if e.busy h || (e.hr.look h).draining then e else runSlice e h)
          else if (cmpDomains e h).isEmpty && decide (t.wraps < 64) then runSlice e h else e)
       else if !hasTurn v h t.tgt then dropTurn e h
       else if t.tgt.code == 10 then
         (let g := 8 * h + t.tgt.pl
          memorySlice e h (v.isOff h (groupOf g)) (bitOn (e.hr.look h).lsInit.toNat (g % 8 / 4))
            ((e.hr.look h).lsRet.look (g % 8)) (e.setLsRet g))
       else
         (let e := borrow v e h t.tgt
          memorySlice e h (v.isOff h 3) (e.hr.look h).hbInit (e.hr.look h).hbRet (e.setHbRet h))))

/-- SECURE_SLICE_TIMEOUT: 2^26 fc have passed behind a secure ring's job that could not yield (R329). -/
def execSecureSliceTimeout (h : Nat) (s : State) : Out :=
  let e := s.eng
  .next (s.onEng
    (match (e.hr.look h).turn with
     | none => e
     | some t =>
       match e.curJob (8 * h + t.tgt.code) with
       | some j => if t.st == .waiting && t.tgt.code ≤ 7 && j.secure then skipTurn e h t.tgt else e
       | none => e))

/-- SLICE_FORCED: the comparator slice has waited long enough, and the hedgerow is fenced (R330). -/
def execSliceForced (h : Nat) (s : State) : Out :=
  let e := s.eng
  .next (s.onEng
    (match (e.hr.look h).turn with
     | none => e
     | some t =>
       if t.st == .waiting && t.tgt.code == 9 && !t.forced && inService s.env e h
       then (e.fence s.env h 3).settle s.env else e))

/-! ### The end of a slice (R328, R331, R334-R338, R349) -/

/-- The borrowed rows hold zeros, and a tested pleacher's tile registers too (R324, R328, R332). -/
def clearTarget (e : Eng) (h : Nat) (t : Turn) : Eng :=
  if t.tgt.code ≤ 7 then e.zeroTiles (8 * h + t.tgt.code)
  else if t.tgt.code == 10 then
    e.onMem (fun m => { m with leaf := Mem.clear m.leaf (leafKey (8 * h + t.tgt.pl) (32768 * t.tgt.unit)) 32768 })
  else if t.tgt.code == 11 then
    e.onMem (fun m => { m with bank := t.pages.foldl (fun b p => Mem.clear b (bankKey h (4096 * p)) 4096) m.bank })
  else e

/-- A failing row into a rising list. -/
def rowsOf (rows : List Nat) (p : Nat → Bool) : List Nat := (rows.filter p).foldl addUnit []

/-- A failing pleacher slice: the spare is mapped, or the hedgerow is fenced (R337). -/
def pleacherFails (s : State) (h p : Nat) : State :=
  let s := s.onEng (s.eng.plFailed h p)
  if spareUnused s h then mapSpare s h p else s.onEng (s.eng.fence s.env h 1)

/-- What a failing slice causes (R336-R338). Rows of a leaf store are given by number, rows of a hedge
bank as 128 × bank + physical row. -/
def sliceFails (s : State) (h : Nat) (t : Turn) (rows : List Nat) : State :=
  if t.tgt.code ≤ 7 then pleacherFails s h t.tgt.code
  else if t.tgt.code == 8 then spareFails s h
  else if t.tgt.code == 9 then
    (if t.forced then s.onEng (s.eng.onHr h (fun r => { r with fenceCause := 2 }))
     else s.onEng (s.eng.fence s.env h 2))
  else if t.tgt.code == 10 then
    (rowsOf rows (fun r => r / 64 == t.tgt.unit)).foldl (fun s r => repairLeafRow s (8 * h + t.tgt.pl) r) s
  else
    (bankOrder ((rows.filter (fun r => r % 128 / 8 == t.tgt.unit && r / 128 < 32)).map
      (fun r => (h, r / 128, r % 128)))).foldl (fun s r => repairBankRow s h r.2.1 r.2.2) s

/-- RESULT of a slice (R326). -/
def resCode (r : SliceRes) : Nat := match r with | .pass => 1 | .fail => 2 | .incomplete => 3

/-- A slice that was not reclaimed ends (R334-R338, R349). -/
def sliceOver (s : State) (h : Nat) (t : Turn) (obs : SliceObs) (rows : List Nat) : State :=
  let res := if t.st == .clearing then SliceRes.incomplete else sliceResult obs
  let e := clearTarget (endTurn s.eng h (resCode res) t.tgt false t.forced) h t
  let s := s.onEng (countResult e h res)
  let s := if res == .fail then sliceFails s h t rows
    else if t.forced then s.onEng (unfence s.eng h) else s
  s.onEng ((s.eng.advanceHr s.env h).settle s.env)

/-- SLICE_END (R334). -/
def execSliceEnd (h : Nat) (obs : SliceObs) (rows : List Nat) (s : State) : Out :=
  .next
    (match (s.eng.hr.look h).turn with
     | none => s
     | some t => if t.st == .waiting || t.reclaim then s else sliceOver s h t obs rows)

/-- RECLAIM_RELEASE: the borrowed rows are zeroed and released, the slice ends INCOMPLETE with RECLAIM, and
the accesses that stalled proceed (R332). -/
def execReclaimRelease (h : Nat) (s : State) : Out :=
  let e := s.eng
  .next (s.onEng
    (match (e.hr.look h).turn with
     | none => e
     | some t =>
       if t.st != .clearing || !t.reclaim then e
       else
         let e := clearTarget (endTurn e h 3 t.tgt true t.forced) h t
         let e := e.onHrCnt h (fun c =>
           { c with bistInc := satInc c.bistInc 1, reclaim := satInc c.reclaim 1 })
         e.advanceHr s.env h))

end Sys2Proof.Machine
end

