-- ==== Sys2Proof/Machine/Instructions.lean ====
section
/-! DEFINITION. The commands of a pleacher: the events of its slots and the issue and completion of its
instructions. Each is the engine operation of its own rule, in this environment. -/

namespace Sys2Proof.Machine

open Sys2Proof

/-! ### Slots of a pleacher (R21, R128, R182, R256-R262) -/

/-- A pleacher with no RUNNING job takes a READY slot (R257). -/
def execJobSelect (g : Nat) (s : State) : Out :=
  .next (s.onEng (selectJob s.env s.eng g))

/-- The selected job starts: the registers of R129, its first built-in or fetched instruction (R21). -/
def execJobStart (g : Nat) (s : State) : Out :=
  .next (s.onEng (startJob s.env s.eng g))

/-- The staging copy of a PB_STAGE job begins (R182). -/
def execStagingCopyStart (g : Nat) (s : State) : Out :=
  .next (s.onEng (copyStart s.env s.eng g))

/-- The staging copy of a PB_STAGE job is complete (R182). -/
def execStagingCopyComplete (g : Nat) (s : State) : Out :=
  .next (s.onEng (copyDone s.env s.eng g))

/-- `n` slice counts have passed; at Q the job yields if an eligible slot exists (R258; log 13). -/
def execSliceQuantum (g : Nat) (n : Nat) (s : State) : Out :=
  .next (s.onEng (quantum s.env s.eng g n))

/-- A slot's save record is written: the slot is READY (R260). -/
def execSaveRecordDone (g : Nat) (slot : Nat) (s : State) : Out :=
  .next (s.onEng (saveDone s.env s.eng g slot))

/-- The rows of a yielded job are back: it runs again (R118). -/
def execRestoreDone (g : Nat) (s : State) : Out :=
  .next (s.onEng (restoreDone s.env s.eng g))

/-- A block of a sequencer program has arrived (R128). -/
def execProgramFetchReturn (g : Nat) (s : State) : Out :=
  .next (s.onEng (fetchReturn s.env s.eng g))

/-! ### Instructions that move tiles (R143-R153) -/

/-- END: the job ends when nothing of it is outstanding (R139). -/
def execEndJob (g : Nat) (s : State) : Out :=
  .next (s.onEng (endI s.env s.eng g))

/-- TLD (R143). -/
def execTld (g : Nat) (s : State) : Out :=
  .next (s.onEng (tldI s.env s.eng g))

/-- TST (R143). -/
def execTst (g : Nat) (s : State) : Out :=
  .next (s.onEng (tstI s.env s.eng g))

/-- TPERM (R146). -/
def execTperm (g : Nat) (s : State) : Out :=
  .next (s.onEng (tpermI s.env s.eng g))

/-- TXP (R146). -/
def execTxp (g : Nat) (s : State) : Out :=
  .next (s.onEng (txpI s.env s.eng g))

/-- TGATH (R152). -/
def execTgath (g : Nat) (s : State) : Out :=
  .next (s.onEng (tgathI s.env s.eng g))

/-- TSCAT (R153). -/
def execTscat (g : Nat) (s : State) : Out :=
  .next (s.onEng (tscatI s.env s.eng g))

/-- TPLANE (R147). -/
def execTplane (g : Nat) (s : State) : Out :=
  .next (s.onEng (tplaneI s.env s.eng g))

/-- TSWZ (R148). -/
def execTswz (g : Nat) (s : State) : Out :=
  .next (s.onEng (tswzI s.env s.eng g))

/-- TFILL, the form that fills (R149). -/
def execTfillFill (g : Nat) (s : State) : Out :=
  .next (s.onEng (tfillI s.env s.eng g))

/-- TFILL, the form that pads (R149). -/
def execTfillPad (g : Nat) (s : State) : Out :=
  .next (s.onEng (tpadI s.env s.eng g))

/-- TCAT (R150). -/
def execTcat (g : Nat) (s : State) : Out :=
  .next (s.onEng (tcatI s.env s.eng g))

/-- TMOV, the form that copies a tile (R151). -/
def execTmovCopy (g : Nat) (s : State) : Out :=
  .next (s.onEng (tmovCopyI s.env s.eng g))

/-- TMOV, the form that writes the destination's headers (R134). -/
def execTmovHeaderWrite (g : Nat) (s : State) : Out :=
  .next (s.onEng (tmovHeaderI s.env s.eng g))

/-! ### Instructions on scalars and control (R135-R151) -/

/-- TMOV, the form that loads an address register (R134). -/
def execTmovALoad (g : Nat) (s : State) : Out :=
  .next (s.onEng (tmovALoadI s.eng g))

/-- TMOV, the form that adds to an address register (R134). -/
def execTmovAAdd (g : Nat) (s : State) : Out :=
  .next (s.onEng (tmovAAddI s.eng g))

/-- TMOV, the form that loads a counter (R134). -/
def execTmovCLoad (g : Nat) (s : State) : Out :=
  .next (s.onEng (tmovCLoadI s.eng g))

/-- TMOV, the forms without effect (R134). -/
def execTmovNop (g : Nat) (s : State) : Out :=
  .next (s.onEng (tmovNopI s.eng g))

/-- PWAIT begins, or completes at once (R137). -/
def execPwait (g : Nat) (s : State) : Out :=
  .next (s.onEng (pwaitI s.env s.eng g))

/-- LOOP (R135). -/
def execLoop (g : Nat) (s : State) : Out :=
  .next (s.onEng (loopI s.eng g))

/-- BR (R136). -/
def execBr (g : Nat) (s : State) : Out :=
  .next (s.onEng (brI s.eng g))

/-- FENCE (R139). -/
def execFenceInstr (g : Nat) (s : State) : Out :=
  .next (s.onEng (fenceI s.eng g))

/-- SYNC waits for its condition or, with ACT 0 and the condition met, is complete (R138). Its first poll only reads,
so `collide` has nothing to meet; the write of its action is SYNC_POLL's (R196). -/
def execSync (g : Nat) (_collide : Bool) (s : State) : Out :=
  .next (s.onEng (syncI s.env s.eng g))

/-- A waiting SYNC reads its half again, or carries out its action (R138; log 14). -/
def execSyncPoll (g : Nat) (collide : Bool) (s : State) : Out :=
  .next (s.onEng (syncPollI s.env s.eng g collide))

/-! ### Completion of instructions (R97, R122) -/

/-- The route of a TPERM is built or found invalid (R97). -/
def execRouteBuildDone (g : Nat) (s : State) : Out :=
  .next (s.onEng (routeBuilt s.env s.eng g))

/-- Instruction `id` retires, after `refusals` refused requests (log 14) (R122; log 14). -/
def execInstructionRetire (g : Nat) (id : Nat) (refusals : Nat) (s : State) : Out :=
  .next (s.onEng (retireOne s.env s.eng g id refusals))

end Sys2Proof.Machine
end

