-- ==== Sys2Proof/Machine/Start.lean ====
section
/-! DEFINITION. Resets and the start sequence (R351-R360). -/

namespace Sys2Proof.Machine

open Sys2Proof

/-! ### Resets (R351, R353) -/

/-- POWER_ON_RESET: everything is cleared but the levels the chip drives on kz_pwr_ack and kz_test_mode
(R351, log 23). -/
def execPowerOnReset (s : State) : Out :=
  let v := Env.reset s.env.cfg
  .next { s with env := { v with pins := { s.env.pins with pwrReq := v.pins.pwrReq } }, eng := Eng.reset }

/-- MGMT_RESET: every RW field of the register window but the security set-up, and the management port (R351,
log 45). kz_pwr_req keeps its level: which reset gives it its reset value the manual does not say (R310, log 81). -/
def execMgmtReset (s : State) : Out := .next { s with env := { s.env with regs := Regs.reset, rdata := 0 } }

/-- CORE_RESET: every job is lost without a record, and every transaction is abandoned (R351, R353). kz_test_mode
is low from then on, because a block whose test mode ends is restarted so (R381, log 46). -/
def execCoreReset (s : State) : Out :=
  .next { (s.onPins (fun p => { p with testMode := false })) with eng := Eng.reset }

/-! ### Failed starts (R355, R356, R359) -/

/-- The start fails with a reason; every output of the fc domain but kz_err takes its reset value (R354). -/
def failStart (s : State) (reason : BitVec 4) : State :=
  { s with
    env := { s.env with ao := { s.env.ao with reason := reason, unresolved := false } }
    eng := { s.eng with
      phase := .failed
      iface := { s.eng.iface with clkAck := false }
      iwp := { s.eng.iwp with txs := [], want := [], out := [], resps := [] } } }

/-! ### FUSE and POWER (R354, R358, R360) -/

/-- kz_pwr_req as a start drives it (R354, R360). -/
def startReqs (v : Env) (qs : Bool) : Tab (BitVec 4) 12 :=
  Vector.ofFn (fun (h : Fin 12) =>
    if qs && v.isHr h.val then (if h.val == 0 then 0x4#4 else 0xF#4) else 0)

/-- The POWER phase begins: full or quickset start, FAILS, REASON, power requests and the privet bank's
supply (R354, R358, R360). -/
def enterPower (s : State) : State :=
  let a := s.env.ao
  let qs := decide (3 ≤ a.fails.toNat) && !a.qsRetry
  let a := { a with
    qs := qs, qsRetry := false, fails := if a.fails == 7 then 7 else a.fails + 1,
    reason := if a.prevOpen then 6 else a.reason, prevOpen := false }
  let v := { s.env with ao := a, pins := { s.env.pins with pwrReq := startReqs s.env qs } }
  let e := { s.eng with
    phase := if powerReady v then Phase.logic else Phase.power
    privetOn := v.cfg.privet && !qs
    hr := Vector.ofFn (fun (i : Fin 12) =>
      let r := s.eng.hr.look i.val
      { r with logicOff := qs && v.isHr i.val && i.val != 0 }) }
  { s with env := v, eng := e }

/-- START: kz_rst_n is released; enabled domains are ARMED again, and the interface levels take effect (R270, R311,
R354, R358). A kz_test_mode at 1 is captured too: its zeroization finds the arrays without contents and the bank without
power, so that SCAN_READY follows at once (R381, log 46). -/
def execStart (s : State) : Out :=
  .next
    (if !s.eng.inReset then s
     else
       let on (d : Nat) : Bool := s.env.cfg.phase && wbit (s.env.regs.pd.look d).cfg 31
       let e := { s.eng with
         phase := .fuse
         scanReady := s.env.pins.testMode && lcsScans s.env.sec.lcs
         iface := ⟨s.env.pins.clkReq, false, s.env.pins.quiesce, s.env.pins.train⟩
         dom := Vector.ofFn (fun (i : Fin 16) =>
           if on i.val then { Domain.reset with st := .armed } else Domain.reset) }
       let a := s.env.ao
       let s := { s with env := { s.env with ao := { a with prevOpen := a.unresolved, unresolved := true } }, eng := e }
       if a.fuseDone then enterPower s else s)

/-- FUSE_WORD: a repair word is applied, and the last one ends the fuse load and a waiting start's FUSE
phase (R341, R354). -/
def execFuseWord (word : W32) (last : Bool) (s : State) : Out :=
  .next
    (if s.env.ao.fuseDone then s
     else
       let s := (applyRepair s (parseRepair word)).onRep (fun r => { r with fuse := r.fuse ++ [word] })
       if !last then s
       else
         let s := { s with env := { s.env with ao := { s.env.ao with fuseDone := true } } }
         if s.eng.phase == .fuse then enterPower s else s)

/-- FUSE_TMO (R356). -/
def execFuseTmo (s : State) : Out :=
  .next (if s.eng.phase == .fuse && !s.env.ao.fuseDone then failStart s 1 else s)

/-- START_TMO (R356). -/
def execStartTmo (s : State) : Out :=
  .next
    (if s.eng.phase == .fuse || s.eng.phase == .power || s.eng.phase == .logic || s.eng.phase == .memory
     then failStart s 2 else s)

/-- QS_RETRY: the next start is a full start (R358, R389, R392). -/
def execQsRetry (s : State) : Out :=
  .next { s with env := { s.env with ao := { s.env.ao with qsRetry := true } } }

/-! ### LOGIC and MEMORY (R354, R355) -/

/-- A hedgerow the start uses and tests. -/
def testsHr (v : Env) (h : Nat) : Bool := v.isHr h && (!v.ao.qs || h == 0)

/-- A pleacher the start uses and tests. -/
def testsPl (v : Env) (g : Nat) : Bool := v.isPl g && (!v.ao.qs || decide (g < 4))

/-- A hedgerow starts fenced, by the first cause found (R355, R396). -/
def startFenced (cause : BitVec 3) (s : State) (h : Nat) : State :=
  if !testsHr s.env h || hrIsFenced s.eng h then s
  else s.onEng (((s.eng.onHr h (fun r => { r with fenceCause := cause })).err 5).errOf h)

/-- A pleacher that fails at start: the spare is mapped, or its hedgerow starts fenced (R355). -/
def startPleacher (s : State) (g : Nat) : State :=
  if !testsPl s.env g then s
  else
    let h := g / 8
    let s := s.onEng (s.eng.plFailed h (g % 8))
    if spareUnused s h then mapSpare s h (g % 8) else startFenced 1 s h

/-- An unused spare that fails at start (R337). -/
def startSpare (s : State) (h : Nat) : State :=
  if testsHr s.env h && spareUnused s h then spareFails s h else s

/-- No hedgerow that could serve is left (R355). -/
def noHedgerow (s : State) : Bool :=
  (upTo s.env.cfg.hedgerows).all (fun h => !testsHr s.env h || hrIsFenced s.eng h)

/-- A phase of the start ends with its results in effect: the start fails with `own`'s reason or for want of a hedgerow,
or goes on (R355). Where both hold, `own`'s reason stands (log 93). -/
def phaseEnd (s : State) (own : Option (BitVec 4)) (go : Eng → Eng) : State :=
  match own with
  | some r => failStart s r
  | none => if noHedgerow s then failStart s 5 else s.onEng (go s.eng)

/-- LOGIC_TEST_END (R354, R355). -/
def execLogicTestEnd (f : LogicFails) (s : State) : Out :=
  .next
    (if s.eng.phase != .logic then s
     else
       let s := f.spares.foldl startSpare s
       let s := (f.pleachers.foldl addUnit []).foldl startPleacher s
       let s := f.movers.foldl (startFenced 1) s
       let s := f.comparators.foldl (startFenced 2) s
       phaseEnd s (if f.block then some 3 else none) (fun e => { e with phase := .memory }))

/-- A leaf-store row that fails at start (R336, R355). Ordinary rows come before spare rows, so that a failing spare
that is unmapped may first be mapped (log 86). -/
def startLeafRow (s : State) (x : Nat × Nat) : State :=
  if testsPl s.env x.1 && decide (x.2 < 776) then repairLeafAt s x.1 x.2 else s

/-- A hedge-bank row that fails at start (R336, R355). -/
def startBankRow (s : State) (x : Nat × Nat × Nat) : State :=
  if testsHr s.env x.1 && decide (x.2.1 < 32) && decide (x.2.2 < 129) then repairBankAt s x.1 x.2.1 x.2.2 else s

/-- A privet line that fails at start; quickset mode does not test the bank (R339, R360). -/
def startPrivet (s : State) (line : Nat) : State := if s.eng.privetOn then privetLineFails s line else s

/-- MEMORY_TEST_END: the arrays hold zeros, and the block is STOPPED or FAILED (R354, R355). -/
def execMemoryTestEnd (f : MemFails) (s : State) : Out :=
  .next
    (if s.eng.phase != .memory then s
     else
       let s := (leafOrder f.leafRows).foldl startLeafRow s
       let s := (bankOrder f.bankRows).foldl startBankRow s
       let s := (f.privetLines.foldl addUnit []).foldl startPrivet s
       let s := (f.pleachers.foldl addUnit []).foldl startPleacher s
       let s := f.staging.foldl (startFenced 1) s
       phaseEnd s (if f.control then some 4 else none) (fun e => { e with phase := .stopped, mem := ⟨[], [], []⟩ }))

end Sys2Proof.Machine
end

