-- ==== Sys2Proof/Machine/Security.lean ====
section
/-! DEFINITION. Lifecycle, tamper, wipes, test mode, the test network and the restart of fc (R200-R203,
R322, R323, R372-R383). -/

namespace Sys2Proof.Machine

open Sys2Proof

/-- A job whose save record is being written to a privet slot (R379): it has left its pleacher. -/
def savingPrivet (e : Eng) (j : Job) : Bool :=
  j.st == .suspended && !j.onPleacher e && (match j.saveAt with | .privet _ => true | _ => false)

/-- A wipe starts or restarts: every privet save slot is invalid, records being saved are refused, and every
line is to hold zero (R202, R379). It waits while fc is stopped. In quickset mode, and while kz_rst_n is
low, there is none. Events of one event cycle start a single wipe: `tie` says that the latest wipe started in this
one's, and events that come while fc is stopped share the cycle after its restart (R379). -/
def startWipe (s : State) (fcStopped tie : Bool) : State :=
  if !s.eng.privetOn then s
  else
    let w := s.env.sec.wipes
    let same := (tie && s.eng.wipe != .none) || s.eng.wipe == .waiting
    let v := { s.env with sec := { s.env.sec with wipes := if same || w == 0xFFFF then w else w + 1 } }
    let e := { s.eng with
      wipe := if fcStopped then Wipe.waiting else Wipe.zeroing, pvSlots := [],
      mem := if fcStopped then s.eng.mem else { s.eng.mem with privet := [] } }
    let ks := (e.jobs.filter (savingPrivet e)).map Job.key
    (s.onEnv v).onEng (e.ariseAll v ks .privetDenied)

/-- A defined lifecycle code (R376). -/
def lcsDefined (c : BitVec 4) : Bool := c == 3 || c == 5 || c == 6 || c == 9 || c == 10

/-- TAMPER: the latch is set, and the first one starts a wipe (R378, R379). -/
def execTamper (fcStopped : Tied Bool) (s : State) : Out :=
  .next
    (if s.env.sec.tamper then s
     else startWipe (s.onEnv { s.env with sec := { s.env.sec with tamper := true } }) fcStopped.val fcStopped.tie)

/-- WIPE_READBACK: every line holds zero and the read-back begins (R202). -/
def execWipeReadback (s : State) : Out :=
  .next (s.onEng (if s.eng.wipe == .zeroing then { s.eng with wipe := .readback } else s.eng))

/-- WIPE_END: the read-back is complete; failing lines are reported, and a zeroization ends with SCAN_READY
(R202, R339, R381). -/
def execWipeEnd (lines : List Nat) (s : State) : Out :=
  .next
    (if s.eng.wipe != .readback then s
     else
       let s := (lines.foldl addUnit []).foldl privetLineFails s
       s.onEng { s.eng with
         wipe := .none, scanReady := s.eng.scanReady || s.eng.zeroize, zeroize := false })

/-- What an in-flight instruction has computed, or captured for its permutation, becomes zeros (R381). -/
def Flight.zero (f : Flight) : Flight :=
  { f with
    mid := f.mid.map (fun _ => 0)
    deliver := match f.deliver with
      | .reg t shape img => .reg t shape (img.map (fun _ => 0))
      | .perm i sel id rows => .perm i sel id (rows.map (fun _ => 0))
      | d => d }

/-- The on-block bytes that loads in flight keep become zeros (R381). -/
def Job.zeroLoads (j : Job) (fs : List Flight) : Job :=
  { j with rd := fs.foldl (fun m f =>
      match f.deliver with
      | .load _ _ key => Mem.clear m (key + 2 ^ 52) (2 ^ 52)
      | _ => m) j.rd }

/-- The privet bytes that a mover holds for a job become zeros: what a built-in program was granted of the privet bank,
and the units of a staging copy that were read from it (R381). -/
def Job.zeroPrivet (j : Job) : Job :=
  let gone (m : Mem) : Mem := Mem.clear m (2 ^ 21) (2 ^ 19)
  { j with
    srcAt := gone j.srcAt
    idxAt := gone j.idxAt
    copy := { j.copy with rd := (copyList j.boxes).foldl (fun m x =>
      if x.1.1.inst == .privet then Mem.clear m (64 * x.2) 64 else m) j.copy.rd } }

/-- A pleacher is zeroized: its tile registers, shadow, headers and latches, and what its instructions in flight
hold (R381, R382, log 46). -/
def Eng.zeroize1 (e : Eng) (g : Nat) : Eng :=
  let fs := (e.pl.look g).flights
  let e := (e.zeroTiles g).onPl g (fun p => { p with flights := p.flights.map Flight.zero })
  match e.curJob g with
  | some j => e.onJob j.key (fun j => j.zeroLoads fs)
  | none => e

/-- The block heeds kz_test_mode at 1: not while kz_rst_n is low, and not in the lifecycle states that ignore it (R380,
R381). -/
def heedsTest (s : State) : Bool := s.env.pins.testMode && lcsScans s.env.sec.lcs && !s.eng.inReset

/-- A zeroization begins: every pleacher zeroes its tile registers, the privet bytes in the movers become zeros, and
SCAN_READY waits for the wipe where there is one (R381, log 46). -/
def beginZeroize (s : State) : State :=
  let e := (upTo (8 * s.env.cfg.hedgerows)).foldl Eng.zeroize1 s.eng
  let e := { e with jobs := e.jobs.map Job.zeroPrivet }
  s.onEng (if s.eng.privetOn then { e with zeroize := true } else { e with scanReady := true })

/-- TEST_MODE_RISE: in the states that permit scan, the wipe starts and the zeroization with it; in the others
kz_test_mode is ignored, and in reset it waits for START (R380, R381, log 46). -/
def execTestModeRise (s : State) : Out :=
  let s' := s.onPins (fun p => { p with testMode := true })
  .next
    (if s.env.pins.testMode then s
     else if heedsTest s' then beginZeroize (startWipe s' false false)
     else s')

/-- LCS_REGISTER: a value other than the registered one is registered; every registration but the first is
a change and starts a wipe (R377, R379). Where it makes the block heed a kz_test_mode that is at 1 already, the block
captures a rise, and the zeroization begins in the same event cycle (R380, R381; log 46). -/
def execLcsRegister (code : BitVec 4) (fcStopped : Tied Bool) (s : State) : Out :=
  .next
    (if s.env.sec.lcs == some code then s
     else
       let x := { s.env.sec with lcs := some code, lcsInvalid := s.env.sec.lcsInvalid || !lcsDefined code }
       let s' := s.onEnv { s.env with sec := x }
       let rise := heedsTest s' && !heedsTest s
       let w := if s.env.sec.lcs.isSome || rise then startWipe s' fcStopped.val fcStopped.tie else s'
       if rise then beginZeroize w else w)

/-- FC_RESTART: the phase inputs are seen again and windows that closed meanwhile close; a wipe that waited
begins (R202, R276, R322). -/
def execFcRestart (ph : Cycles) (s : State) : Out :=
  let v := s.env
  .next (s.onEng
    (if s.eng.inReset then s.eng
     else
       let e := if s.eng.wipe == .waiting
         then { s.eng with wipe := .zeroing, mem := { s.eng.mem with privet := [] } } else s.eng
       if !v.phaseOn then e
       else
         let x := openNow v (e.sample v ph.ph)
         let y := closeNow v x.1
         afterClose v ((upTo 96).foldl (pwaitDone v) y.1) (x.2 ++ y.2) ph.next ph.next2))

/-! ### The test wrapper (R310, R323) -/

/-- Draws of free values. -/
def State.drawFree (s : State) (n : Nat) : State := s.onEng (s.eng.draw n)

/-- The wrapper changed. -/
def State.onWrap (s : State) (f : Wrapper → Wrapper) : State := { s with env := { s.env with wrap := f s.env.wrap } }

/-- A shift of the wrapper serial path: through the bypass bit in WS_BYPASS; what another instruction's path holds
the manual does not lay out (log 33). kz_wso is 0 while a zeroization holds the chains (R381). -/
def wrapShift (s : State) (wsi : Bool) : State :=
  if s.eng.zeroize then s.onWrap (fun w => { w with wso := false })
  else
    match s.env.wrap.ins with
    | .bypass => s.onWrap (fun w => { w with byp := wsi, wso := w.byp })
    | _ => (s.onWrap (fun w => { w with wso := (Config.freeByte s.eng.free).getLsbD 0 })).drawFree 1

/-- A capture of the selected path (kz_capturewr): what the bypass bit then holds the manual does not say, and another
path is not laid out (log 33). A zeroization holds the chains (R381). -/
def wrapCapture (s : State) : State :=
  if s.eng.zeroize then s
  else
    match s.env.wrap.ins with
    | .bypass => (s.onWrap (fun w => { w with byp := (Config.freeByte s.eng.free).getLsbD 0 })).drawFree 1
    | _ => s

/-! ### The test network (R323, R380) -/

/-- The network may reach an array: the block is stopped and the lifecycle state permits it. -/
def netOpen (s : State) : Bool := s.eng.phase == .stopped && lcsScans s.env.sec.lcs

/-- An answer of the network. -/
def netAnswer (s : State) (x : W32) : State := s.onEng { s.eng with netData := x }

/-- An answer of the network about which the manual says nothing (log 33). -/
def netFree (s : State) : State := (netAnswer s ((Config.freeWord s.eng.free).setWidth 32)).drawFree 1

/-- How the network meets an array: it is out of reach and answers zeros, it is off, it makes the access wait, or it
serves it. -/
inductive NetGate
  | closed | off | wait | serve
  deriving DecidableEq, Repr, Inhabited

/-- A leaf store met by the network, and what the access starts: clearing and the zeroing of borrowed rows come first
(R186), and a sleeping store wakes (R205). -/
def leafGate (s : State) (g a : Nat) : NetGate × Eng :=
  let e := s.eng
  let h := g / 8
  if !netOpen s || !s.env.isPl g then (.closed, e)
  else if s.env.isOff h (groupOf g) then (.off, e)
  else if bitOn (e.hr.look h).lsInit.toNat (g % 8 / 4) || borrowed e (.leaf g) a then (.wait, e)
  else
    match (e.hr.look h).lsRet.look (g % 8) with
    | .awake => (.serve, e)
    | .waking => (.wait, e)
    | .retained => (.wait, if (e.hr.look h).logicOff then e else e.setLsRet g .waking)

/-- A hedge bank met by the network (R193, R205). -/
def bankGate (s : State) (h a : Nat) : NetGate × Eng :=
  let e := s.eng
  if !netOpen s || !s.env.isHr h then (.closed, e)
  else if s.env.isOff h 3 then (.off, e)
  else if (e.hr.look h).hbInit || borrowed e (.bank h) a then (.wait, e)
  else
    match (e.hr.look h).hbRet with
    | .awake => (.serve, e)
    | .waking => (.wait, e)
    | .retained => (.wait, if (e.hr.look h).logicOff then e else e.setHbRet h .waking)

/-- A tile register met by the network. -/
def tileGate (s : State) (g : Nat) : NetGate × Eng :=
  (if !netOpen s || !s.env.isPl g then .closed else if s.env.isOff (g / 8) 0 then .off else .serve, s.eng)

/-- A byte of an array read through a gate: zeros where it is out of reach, and an undefined byte where it is powered
down (log 33). An access that waits answers nothing. -/
def netRead (s : State) (x : NetGate × Eng) (b : Byte) : State :=
  let s := s.onEng x.2
  match x.1 with
  | .closed => netAnswer s 0
  | .off => (netAnswer s ((Config.freeByte s.eng.free).zeroExtend 32)).drawFree 1
  | .wait => s
  | .serve => netAnswer s (b.zeroExtend 32)

/-- An array changed through a gate; a write answers zeros. -/
def netWrite (s : State) (x : NetGate × Eng) (f : Eng → Eng) : State :=
  let s := s.onEng x.2
  match x.1 with
  | .serve => netAnswer (s.onEng (f s.eng)) 0
  | .wait => s
  | _ => netAnswer s 0

/-- What the network holds of BIST controller `c`: nothing written yet reads 0 (log 33). -/
def bistCtl (e : Eng) (c : Nat) : BistCtl := (e.bist.find? (fun b => b.num == c)).getD ⟨c, 0, false⟩

/-- A BIST controller changed. -/
def Eng.onBist (e : Eng) (c : Nat) (f : BistCtl → BistCtl) : Eng :=
  { e with bist := f (bistCtl e c) :: e.bist.filter (fun b => b.num != c) }

/-- A byte of control memory as the network reads it: what it wrote itself since the block last ran; until the block
has run every other byte holds the zero of the start (R354), and from then on the layout is the block's own and reads
are free (log 33). -/
def ctlRead (s : State) (a : Nat) : State :=
  if !netOpen s then netAnswer s 0
  else
    match s.eng.ctl.find? (fun x => x.1 == a) with
    | some x => netAnswer s (x.2.zeroExtend 32)
    | none =>
      if s.env.ao.unresolved then netAnswer s 0
      else (netAnswer s ((Config.freeByte s.eng.free).zeroExtend 32)).drawFree 1

/-- A byte of control memory written through the network. -/
def ctlWrite (s : State) (a : Nat) (x : Byte) : State :=
  let s' := netAnswer s 0
  if netOpen s then s'.onEng { s'.eng with ctl := (a, x) :: s'.eng.ctl.filter (fun y => y.1 != a) } else s'

/-- An access of the network with its wrapper instruction in place (R323, R380). Array bytes are named by their
offset. An update of the selected path (kz_updatewr) changes nothing by itself: what it would pass on through KZ_NETSEL
is a form of its own (log 33). -/
def netAccess (a : NetAccess) (s : State) : State :=
  match a with
  | .wrapReset => s.onWrap (fun _ => Wrapper.reset)
  | .wrapSelect i => s.onWrap (fun w => { w with ins := i })
  | .wrapShift b => wrapShift s b
  | .wrapCapture => wrapCapture s
  | .wrapUpdate => s
  | .bistConfig c w => s.onEng (s.eng.onBist c (fun b => { b with word := w }))
  | .bistConfigRead c => netAnswer s (bistCtl s.eng c).word
  | .bistStart c => s.onEng (s.eng.onBist c (fun b => { b with started := true }))
  | .bistResult _ => netFree s
  | .fuseView n => netAnswer s (nth s.env.rep.fuse n 0)
  | .logRead => netAnswer s (nth s.env.rep.log 0 0)
  | .softRepair w =>
    let r := parseRepair w
    if s.eng.alive && (hrIsStopped s.eng r.hr || hrIsFenced s.eng r.hr) then applyRepair s r else s
  | .leafRead g x => netRead s (leafGate s g x) (s.eng.mem.byte (.leaf g) x)
  | .leafWrite g x b => netWrite s (leafGate s g x) (fun e => e.onMem (fun m => m.put (.leaf g) x b))
  | .bankRead h x => netRead s (bankGate s h x) (s.eng.mem.byte (.bank h) x)
  | .bankWrite h x b => netWrite s (bankGate s h x) (fun e => e.onMem (fun m => m.put (.bank h) x b))
  | .tileRead g t x => netRead s (tileGate s g) (Mem.byte (s.eng.pl.look g).tile (tileKey t x))
  | .tileWrite g t x b =>
    netWrite s (tileGate s g) (fun e =>
      e.onPl g (fun p => { p with tile := Mem.put p.tile (tileKey t x) b, latches := p.latches.drop t }))
  | .controlRead x => ctlRead s x
  | .controlWrite x b => ctlWrite s x b
  | .privetRead _ => netAnswer s 0
  | .privetWrite _ _ => netAnswer s 0

/-- The forms that use the wrapper itself; every other form goes through KZ_NETSEL (R323). -/
def usesWrapper : NetAccess → Bool
  | .wrapReset | .wrapSelect _ | .wrapShift _ | .wrapCapture | .wrapUpdate => true
  | _ => false

/-- NETWORK_ACCESS (R310, R323, R380). -/
def execNetworkAccess (a : NetAccess) (s : State) : Out :=
  .next (netAccess a (if usesWrapper a then s else s.onWrap (fun w => { w with ins := .netsel })))

end Sys2Proof.Machine
end

