-- ==== Sys2Proof/Machine/Flags.lean ====
section
/-! DEFINITION. What the chip sees of the state: the interrupt and status outputs, and the value each
register of the window reads (R266-R284, R302, R308-R311, R386-R404). -/

namespace Sys2Proof.Machine

open Sys2Proof

/-! ### Outputs -/

/-- Status AND enable of KZ_PD_IRQ (R284). -/
def irqActive (v : Env) (m : Domain) (d : Nat) : Bool :=
  let ie := (v.regs.pd.look d).ie
  (m.wrap && wbit ie 16) || (m.drop && wbit ie 17) || (m.stall && wbit ie 18)

/-- kz_irq[d]; 0 without phase dispatch, in quickset mode and in FAILED (R11, R284, R354, log 32). -/
def kzIrq (s : State) (d : Nat) : Bool :=
  s.env.phaseOn && s.eng.phase != .failed && irqActive s.env (s.eng.dom.look d) d

/-- KZ_ERR_STATUS with the bits it reads from elsewhere (R396). -/
def errStatusNow (s : State) : W32 :=
  s.eng.errStatus ||| ofFields [(8, flag s.env.rep.pvFail), (9, flag s.env.sec.lcsInvalid),
    (10, flag (s.eng.phase == .failed))]

/-- kz_err (R396); 0 while kz_rst_n is low (R300). -/
def kzErr (s : State) : Bool := !s.eng.inReset && (errStatusNow s &&& s.env.regs.errEnable) != 0

/-- kz_mem_idle (R318); 1, its reset value, in FAILED (R354). -/
def kzMemIdle (s : State) : Bool := s.eng.phase == .failed || memIdle s.eng

/-- kz_iwp_in_rdy (R309). -/
def kzIwpInRdy (s : State) : Bool := iwpReady s.env s.eng

/-- kz_fuse_rdy: a repair word is taken until the last one has been, whatever kz_rst_n does (R310, R341). It is 0 while
kz_por_n is low, which is no state between commands. -/
def kzFuseRdy (s : State) : Bool := !s.env.ao.fuseDone

/-- kz_clk_ack (R321); 0 in FAILED (R354). -/
def kzClkAck (s : State) : Bool := s.eng.phase != .failed && s.eng.iface.clkAck

/-- kz_pwr_req[4h + k] (R310). -/
def kzPwrReq (s : State) (h k : Nat) : Bool := s.env.reqBit h k

/-- kz_wso (R310). -/
def kzWso (s : State) : Bool := s.env.wrap.wso

/-- The response channel of the inbound window port (R308). -/
structure RsOut where
  vld : Bool
  dst : BitVec 6
  id : BitVec 16
  code : BitVec 2
  deriving DecidableEq, Repr, Inhabited

/-- The response the inbound window port drives; its reset values where none waits and in FAILED (R308, R354). -/
def kzIwpRs (s : State) : RsOut :=
  match s.eng.iwp.resps with
  | r :: _ => if s.eng.phase == .failed then ⟨false, 0, 0, 0⟩ else ⟨true, r.dst, r.id, r.code⟩
  | [] => ⟨false, 0, 0, 0⟩

/-- A request as a path drives it (R303). -/
structure RqOut where
  vld : Bool
  op : Nat
  addr : Nat
  size : Nat
  len : Nat
  tag : Nat
  sc : Nat
  sec : Bool
  node : Nat
  win : Nat
  deriving DecidableEq, Repr, Inhabited

/-- A path that drives no request: every output at its reset value (R303). -/
def RqOut.idle : RqOut := ⟨false, 0, 0, 0, 0, 0, 0, false, 0, 0⟩

/-- The request of a hedgerow's port: size 0 for an owner-table entry, else units of 64 bytes (R303, R304). -/
def Xact.rq (x : Xact) : RqOut :=
  let small := match x.purpose with | .owner _ _ => true | _ => false
  ⟨true, if x.remote then 2 else if x.write then 1 else 0, x.addr, if small then 0 else 3, if small then 0 else x.len / 64 - 1,
    x.tag, x.sc, x.sec, x.node, x.win⟩

/-- The request of the control port: size 1 for a table entry, 2 for a record (R303, R304). -/
def CfpX.rq (x : CfpX) : RqOut :=
  let wr := match x.who with | .record _ _ => true | _ => false
  let size := match x.who with | .table _ _ _ => 1 | .record _ _ => 2 | _ => 3
  ⟨true, if wr then 1 else 0, x.addr, size, if size == 3 then x.len / 64 - 1 else 0, x.tag, 0, x.sec, 0, 0⟩

/-- The request of the local write path (R303, R304). -/
def MwX.rq (x : MwX) : RqOut := ⟨true, 1, x.addr, 3, x.data.length / 64 - 1, x.tag, x.sc, false, 0, 0⟩

/-- The requests of a hedgerow's outstanding transactions in the order in which they passed; in FAILED the port drives
none (R303, R354). -/
def hfpRqs (s : State) (h : Nat) : List RqOut :=
  if s.eng.phase == .failed then [] else (s.eng.hr.look h).xacts.map Xact.rq

/-- The requests of the control port. -/
def cfpRqs (s : State) : List RqOut := if s.eng.phase == .failed then [] else s.eng.hed.cfpOut.map CfpX.rq

/-- The requests of the local write path. -/
def iwpRqs (s : State) : List RqOut := if s.eng.phase == .failed then [] else s.eng.iwp.out.map MwX.rq

/-- What a path drives on its request channel for the `i`-th of its requests: the idle values once there is none
(R303). -/
def rqAt (rs : List RqOut) (i : Nat) : RqOut := nth rs i RqOut.idle

/-- A write beat: its lanes, none where the byte enable is 0, a poison mark per half, and whether it is the last
(R303, R305). -/
structure Beat where
  vld : Bool
  lanes : List (Option Byte)
  psn : List Bool
  last : Bool
  deriving DecidableEq, Repr, Inhabited

/-- A path of beat size `b` that drives no beat: every output at its reset value (R303). -/
def Beat.idle (b : Nat) : Beat := ⟨false, List.replicate b none, List.replicate (b / 64) false, false⟩

/-- Lane k of beat i of a write on a path with beats of `b` bytes carries the byte at A + i b + k (R305). -/
def beatLane (b addr : Nat) (data : List (Option Byte)) (i k : Nat) : Option Byte :=
  let at' := addr / b * b + i * b + k
  if addr ≤ at' then nth data (at' - addr) none else none

/-- The poison mark of the 64-byte half that begins at `at'` (R305, R320). -/
def beatPsn (addr : Nat) (psn : List Bool) (at' : Nat) : Bool :=
  if addr ≤ at' then nth psn ((at' - addr) / 64) false else false

/-- The beats of a write of `data` at `addr`: one for each block of `b` bytes it touches (R305). -/
def writeBeats (b addr : Nat) (data : List (Option Byte)) (psn : List Bool) : List Beat :=
  let n := ceilDiv (addr % b + data.length) b
  (upTo n).map (fun i =>
    ⟨true, (upTo b).map (beatLane b addr data i), (upTo (b / 64)).map (fun k => beatPsn addr psn (addr / b * b + i * b + 64 * k)),
     i + 1 == n⟩)

/-- The write beats of a hedgerow's outstanding writes, in the order of their requests (R305). -/
def hfpBeats (s : State) (h : Nat) : List Beat :=
  if s.eng.phase == .failed then []
  else ((s.eng.hr.look h).xacts.filter (fun x => x.write)).flatMap (fun x => writeBeats 128 x.addr x.data x.psn)

/-- A transaction of the control port that writes: a record (R240). -/
def CfpX.isWrite (x : CfpX) : Bool := match x.who with | .record _ _ => true | _ => false

/-- The write beats of the control port's outstanding records (R305). -/
def cfpBeats (s : State) : List Beat :=
  if s.eng.phase == .failed then []
  else (s.eng.hed.cfpOut.filter CfpX.isWrite).flatMap (fun x => writeBeats 64 x.addr (x.data.map some) [])

/-- The write beats of the local write path (R305). -/
def iwpBeats (s : State) : List Beat :=
  if s.eng.phase == .failed then [] else s.eng.iwp.out.flatMap (fun x => writeBeats 128 x.addr x.data [])

/-- What a path of beat size `b` drives on its write channel for the `i`-th of its beats (R303). -/
def beatAt (b : Nat) (bs : List Beat) (i : Nat) : Beat := nth bs i (Beat.idle b)

/-! ### Identity and capability (R394, R395) -/

/-- KZ_BLOCK_CAP. -/
def blockCap (c : Cfg) : W32 :=
  ofFields [(28, c.hedgerows), (27, flag (!c.large)), (16, 8 * c.hedgerows), (8, if c.rcExt then 64 else 16),
    (4, flag c.phase), (3, flag c.iwp), (2, flag c.privet), (1, flag c.rcExt), (0, flag c.ringFull)]

/-- STATE of KZ_START_STATUS (R354). -/
def Phase.code : Phase → Nat
  | .reset => 0
  | .fuse => 1
  | .power => 2
  | .logic => 3
  | .memory => 4
  | .stopped => 5
  | .running => 6
  | .failed => 7

/-- KZ_START_STATUS. -/
def startStatus (s : State) : W32 :=
  ofFields [(28, s.eng.phase.code), (27, flag (s.env.ao.fuseDone && !s.eng.inReset))]

/-- KZ_QS_REASON. -/
def qsReason (a : AlwaysOn) : W32 :=
  ofFields [(31, flag a.qs), (30, flag a.qsRetry), (27, a.fails.toNat), (0, a.reason.toNat)]

/-- Free job slots on pleachers in service; the configuration's count while kz_rst_n is low (log 47). -/
def slotsFree (s : State) : Nat :=
  if s.eng.inReset then 256 * s.env.cfg.hedgerows
  else (((upTo (8 * s.env.cfg.hedgerows)).filter (plInService s.env s.eng)).map (freeSlots s.eng)).foldl (· + ·) 0

/-- KZ_ADMIT_STATE. -/
def admitState (s : State) : W32 := ofFields [(12, s.eng.hed.queue.length), (0, slotsFree s)]

/-- KZ_MEM_IF_STATE. -/
def memIfState (s : State) : W32 :=
  let i := s.eng.iface
  ofFields [(31, flag i.clkReq), (30, flag i.clkAck), (29, flag i.quiesce), (28, flag i.train),
    (27, flag (kzMemIdle s)), (0, sc0Out s.eng)]

/-! ### Test, repair and security -/

/-- KZ_REPAIR_STATUS. -/
def repairStatus (r : Rep) : W32 :=
  ofFields [(24, r.log.length), (23, flag r.logLost), (22, flag r.pvFail), (0, r.pvLine.toNat)]

/-- LCS_STATE (R376). -/
def lcsState (x : Option (BitVec 4)) : Nat :=
  match x with
  | none => 0
  | some c => if c == 3 then 0 else if c == 5 then 1 else if c == 6 then 2 else if c == 9 then 3
      else if c == 10 then 4 else 5

/-- KZ_SEC_STATUS. -/
def secStatus (s : State) : W32 :=
  let x := s.env.sec
  ofFields [(28, (x.lcs.getD 0).toNat), (25, lcsState x.lcs), (24, flag x.tamper),
    (23, flag (s.eng.wipe != .none)), (22, flag s.eng.scanReady), (21, flag x.lcsInvalid), (0, x.wipes.toNat)]

/-! ### Windows, domains and hedgerows -/

/-- A transaction accepted for a window is not answered yet (R296). -/
def winBusy (e : Eng) (w : Nat) : Bool :=
  e.iwp.txs.any (fun t => t.win.toNat == w) || e.iwp.resps.any (fun r => r.win.toNat == w && r.code != 2)

/-- KZ_IWP_BUSY (R296). -/
def iwpBusy (s : State) : W32 :=
  ofFields ((upTo 32).map (fun w => (w, flag (winBusy s.eng w))))

/-- KZ_PD_STATE. -/
def pdState (m : Domain) : W32 :=
  let st := match m.st with | .disabled => 0 | .armed => 1 | .running => 2
  ofFields [(30, st), (29, flag m.mark.isSome), (0, m.phase.toNat)]

/-- KZ_PD_IRQ. -/
def pdIrq (v : Env) (m : Domain) (d : Nat) : W32 :=
  (v.regs.pd.look d).ie ||| ofFields [(2, flag m.stall), (1, flag m.drop), (0, flag m.wrap)]

/-- The registers of one period domain (R402). -/
def readDomain (s : State) (d r : Nat) : W32 :=
  let m := s.eng.dom.look d
  match r with
  | 0x00 => (s.env.regs.pd.look d).cfg
  | 0x04 => pdState m
  | 0x08 => m.pnum
  | 0x0C => m.mark.getD 0
  | 0x10 => pdIrq s.env m d
  | 0x14 => m.late
  | 0x18 => m.discard
  | _ => 0

/-- KZ_PH_VAL of source n. -/
def phVal (s : State) (n : Nat) : W32 :=
  ofFields [(31, flag (s.eng.phWrap.toNat.testBit n)), (0, (s.eng.phVal.look n).toNat)]

/-- The registers of one distributed tensor (R402). -/
def readDt (v : Env) (t r : Nat) : W32 :=
  let x := v.regs.dt.look t
  match r with
  | 0x00 => x.aperLo
  | 0x04 => x.aperHi
  | 0x08 => x.otLo
  | 0x0C => x.otHi
  | 0x10 => x.shape
  | _ => 0

/-- The registers of one inbound window (R402). -/
def readWin (v : Env) (w r : Nat) : W32 :=
  let x := v.regs.win.look w
  if !v.cfg.iwp then 0
  else
    match r with
    | 0x00 => x.lo
    | 0x04 => x.hi
    | 0x08 => x.size
    | _ => 0

/-- KZ_LS_LEND of a pleacher. -/
def lsLend (v : Env) (g : Nat) : W32 :=
  ofFields [(16, (v.rep.leaf.look g).failed.toNat), (0, (v.regs.lend.look g).toNat)]

/-- KZ_HR_STATE. While kz_rst_n is low its fc-domain fields read 0 (R392). -/
def hrState (s : State) (h : Nat) : W32 :=
  let r := s.eng.hr.look h
  let x := s.env.rep.hr.look h
  let on := !s.eng.inReset
  ofFields [(31, flag r.mgmtIn), (30, flag (on && ready s.env s.eng h)), (29, flag (inService s.env s.eng h)),
    (28, flag r.draining), (27, flag r.testing), (24, r.fenceCause.toNat), (21, r.readmitRes.toNat),
    (19, x.spare.toNat), (16, x.spareFor.toNat), (8, r.plFail.toNat)]

/-- KZ_HR_MEM_STATE. A bank being woken still counts as in retention (R205). -/
def hrMemState (r : Hedgerow) : W32 :=
  ofFields [(9, r.lsInit.toNat), (8, flag r.hbInit), (7, flag (r.hbRet != .awake))]

/-- KZ_HR_LS_RET (R404). -/
def hrLsRet (r : Hedgerow) : W32 := ofFields ((upTo 8).map (fun p => (p, flag (r.lsRet.look p != .awake))))

/-- The counters of one hedgerow (R403). -/
def readHrCnt (c : HrCnt) (r : Nat) : W32 :=
  match r with
  | 0x080 => c.lsCollide
  | 0x084 => c.hbCollide
  | 0x088 => c.switches
  | 0x08C => c.rcHit
  | 0x090 => c.rcMiss
  | 0x094 => c.fabErr
  | 0x098 => c.fabTmo
  | 0x09C => c.poison
  | 0x0A0 => c.bistPass
  | 0x0A4 => c.bistFail
  | 0x0A8 => c.bistInc
  | 0x0AC => c.bistSkip
  | 0x0B0 => c.reclaim
  | _ => 0

/-- The registers of one hedgerow (R403). -/
def readHr (s : State) (h r : Nat) : W32 :=
  let x := s.env.regs.hr.look h
  let e := s.eng.hr.look h
  match r with
  | 0x000 => hrState s h
  | 0x004 => ofFields [(31, flag e.stopped)]
  | 0x008 => x.pwr ||| ofFields [(8, (s.env.pins.pwrAck.look h).toNat)]
  | 0x00C => hrMemState e
  | 0x010 => hrLsRet e
  | 0x014 => e.bistLast
  | 0x020 => x.semWin
  | 0x024 => x.memCfg
  | 0x028 => x.scCfg
  | 0x02C => x.lendHb ||| ofFields [(16, (s.env.rep.hr.look h).failed.toNat)]
  | 0x030 => x.saveLo
  | 0x034 => x.saveHi
  | 0x038 => x.stageLo
  | 0x03C => x.stageHi
  | 0x040 => x.stageSize
  | r => readHrCnt e.cnt r

/-! ### The window (R386, R387, R393) -/

/-- The block counters (R393). -/
def readBlkCnt (v : Env) (c : BlkCnt) (off : Nat) : W32 :=
  match off with
  | 0x0600 => c.claimWaits
  | 0x0604 => c.cfpRdErr
  | 0x0608 => c.cfpWrErr
  | 0x060C => c.fabStray
  | 0x0610 => c.dtRmtWr
  | 0x0614 => c.dtRmtRd
  | 0x0618 => c.dtRmtRefused
  | 0x061C => if v.cfg.iwp then c.iwpAccept else 0
  | 0x0620 => if v.cfg.iwp then c.iwpDrop else 0
  | 0x0624 => if v.cfg.iwp then c.iwpErr else 0
  | _ => 0

/-- The block-level registers (R393). -/
def readBlock (s : State) (off : Nat) : W32 :=
  let r := s.env.regs
  let x := s.env.sec
  let pv := s.env.cfg.privet
  match off with
  | 0x0000 => 0x4F585742
  | 0x0004 => 0x4B5A0103
  | 0x0008 => blockCap s.env.cfg
  | 0x000C => 0x00083401
  | 0x0010 => r.genNeg
  | 0x0104 => startStatus s
  | 0x0108 => qsReason s.env.ao
  | 0x0110 => errStatusNow s
  | 0x0114 => r.errEnable
  | 0x0118 => s.eng.errHr
  | 0x0200 => r.dbBaseLo
  | 0x0204 => r.dbBaseHi
  | 0x0208 => r.ringTblLo
  | 0x020C => r.ringTblHi
  | 0x0210 => r.pollCfg
  | 0x0220 => r.sliceCfg
  | 0x0224 => admitState s
  | 0x0228 => s.eng.hed.admitNext
  | 0x022C => ofFields [(0, s.eng.hed.st)]
  | 0x0300 => r.fabTmo
  | 0x0304 => memIfState s
  | 0x0308 => r.memWake
  | 0x0400 => r.bistCfg
  | 0x0404 => r.bistOppt
  | 0x0408 => repairStatus s.env.rep
  | 0x040C => nth s.env.rep.log 0 0
  | 0x0500 => x.cfg
  | 0x0504 => secStatus s
  | 0x0508 => if pv then x.saveBase else 0
  | 0x050C => if pv then x.stageBase else 0
  | 0x0510 => if pv then x.stageSize else 0
  | 0x0700 => r.nodeId
  | 0x0704 => if s.env.cfg.iwp then s.eng.iwp.opened else 0
  | 0x0708 => if s.env.cfg.iwp then s.eng.iwp.opened else 0
  | 0x070C => if s.env.cfg.iwp then iwpBusy s else 0
  | off => readBlkCnt s.env s.eng.cnt off

/-- The value a read of the window returns; 0 where no register lies (R302, R386, R387). -/
def readReg (s : State) (addr : Nat) : W32 :=
  let off := addr % 65536 / 4 * 4
  if off < 0x1000 then readBlock s off
  else if off < 0x1200 then
    (if s.env.cfg.phase then readDomain s ((off - 0x1000) / 0x20) (off % 0x20) else 0)
  else if off < 0x1218 then (if s.env.cfg.phase then phVal s ((off - 0x1200) / 4) else 0)
  else if off < 0x2000 then 0
  else if off < 0x2400 then readDt s.env ((off - 0x2000) / 0x20) (off % 0x20)
  else if off < 0x2600 then readWin s.env ((off - 0x2400) / 0x10) (off % 0x10)
  else if off < 0x3000 then 0
  else if off < 0x3180 then
    (if s.env.isPl ((off - 0x3000) / 4) then lsLend s.env ((off - 0x3000) / 4) else 0)
  else if off < 0x8000 then 0
  else if off < 0xB000 then
    (if s.env.isHr ((off - 0x8000) / 0x400) then readHr s ((off - 0x8000) / 0x400) (off % 0x400) else 0)
  else 0

/-! ### The management port (R301, R302) -/

/-- The outputs of the management port. -/
structure MpOut where
  rdata : W32
  ack : Bool
  deriving DecidableEq, Repr, Inhabited

/-- Without an access in its last cycle: kz_mp_ack 0, and what was last driven stays on kz_mp_rdata. -/
def mpIdle (s : State) : MpOut := ⟨s.env.rdata, false⟩

/-- The cycle in which a read completes (R302). -/
def mpRead (s : State) (addr : Nat) : MpOut := ⟨readReg s addr, true⟩

/-- The cycle in which a write completes (R302). -/
def mpWrite (s : State) : MpOut := ⟨s.env.rdata, true⟩

end Sys2Proof.Machine
end

