-- ==== Sys2Proof/Machine/Window.lean ====
section
/-! DEFINITION. Writes to the register window (R362-R365, R386-R403). -/

namespace Sys2Proof.Machine

open Sys2Proof

/-- The state an outcome leaves; one that leaves none keeps the state. -/
def after (o : Out) (s : State) : State :=
  match o with
  | .next s' => s'
  | _ => s

/-- The RW registers changed. -/
def State.onRegs (s : State) (f : Regs → Regs) : State := { s with env := { s.env with regs := f s.env.regs } }

/-! ### Commands that are one register's own behaviour -/

/-- RC_FLUSH: the valid entries of the named pleachers' route caches are invalidated (R105, R400). -/
def execRcFlush (i : Nat) (bits : W32) (s : State) : Out :=
  .next (s.onEng
    (if s.eng.inReset || 3 ≤ i then s.eng
     else
       ((upTo 32).filter (fun b => wbit bits b && s.env.isPl (32 * i + b))).foldl
         (fun e b => e.onPl (32 * i + b) (fun p => { p with routes := [] })) s.eng))

/-- CNT_CLEAR_BLOCK (R399). -/
def execCntClearBlock (s : State) : Out :=
  .next (s.onEng (s.eng.onCnt (fun c => { c with claimWaits := 0, cfpRdErr := 0, cfpWrErr := 0, fabStray := 0 })))

/-- Counters of a hedgerow at 0. -/
def zeroHrCnt : HrCnt := ⟨0, 0, 0, 0, 0, 0, 0, 0, 0, 0, 0, 0, 0⟩

/-- CNT_CLEAR_HEDGEROW (R399). -/
def execCntClearHedgerow (s : State) : Out :=
  .next (s.onEng { s.eng with hr := s.eng.hr.map (fun r => { r with cnt := zeroHrCnt }) })

/-- CNT_CLEAR_DOMAIN (R399). -/
def execCntClearDomain (s : State) : Out :=
  .next (s.onEng { s.eng with dom := s.eng.dom.map (fun m => { m with late := 0, discard := 0 }) })

/-- CNT_CLEAR_REMOTE (R399). -/
def execCntClearRemote (s : State) : Out :=
  .next (s.onEng (s.eng.onCnt (fun c =>
    { c with dtRmtWr := 0, dtRmtRd := 0, dtRmtRefused := 0, iwpAccept := 0, iwpDrop := 0, iwpErr := 0 })))

/-- GEN_NEG_WRITE: G1 stores 0b01 for every code (R395, R408). -/
def execGenNegWrite (_word : W32) (s : State) : Out := .next (s.onRegs (fun r => { r with genNeg := 1 }))

/-- LOCK of KZ_SEC_CFG. -/
def locked (s : State) : Bool := wbit s.env.sec.cfg 31

/-- Jobs in flight whose set-up is changed outside the time R365 permits (log 27). -/
def spoilIf (bad : Bool) (p : Job → Bool) (s : State) : State :=
  if bad then s.onEng (s.eng.spoil p) else s

/-- The block is not stopped, and jobs may be in flight. -/
def blockRuns (s : State) : Bool := s.eng.phase == .running

/-- A write to KZ_SEC_CFG: ignored while LOCK is 1; LOCK is set and never cleared (R365, R372, R388). -/
def writeSecCfg (word : W32) (s : State) : State :=
  if locked s then s
  else spoilIf (blockRuns s) (fun _ => true)
    (s.onEnv { s.env with sec := { s.env.sec with cfg := maskWrite 0x801DFFFF word } })

/-- SEC_LOCK: a write to KZ_SEC_CFG with LOCK = 1 (R351, R365). -/
def execSecLock (word : W32) (s : State) : Out := .next (if wbit word 31 then writeSecCfg word s else s)

/-! ### Registers with commands of their own -/

/-- KZ_CTRL: STOP alone takes effect when both are 1 (R362, R363). -/
def writeCtrl (word : W32) (s : State) : State :=
  if wbit word 1 then
    (if wbit word 2 then after (execDrainingStop s) s else after (execAbortiveStop s) s)
  else if wbit word 0 then after (execRun s) s else s

/-- KZ_CNT_CLEAR (R399). -/
def writeCntClear (word : W32) (s : State) : State :=
  let s := if wbit word 0 then after (execCntClearBlock s) s else s
  let s := if wbit word 1 then after (execCntClearHedgerow s) s else s
  let s := if wbit word 2 then after (execCntClearDomain s) s else s
  if wbit word 3 then after (execCntClearRemote s) s else s

/-- KZ_HR_CTRL (R364). -/
def writeHrCtrl (h : Nat) (word : W32) (s : State) : State :=
  if wbit word 1 then
    (if wbit word 2 then after (execHrDrainingStop h s) s else after (execHrAbortiveStop ⟨h, false⟩ s) s)
  else if wbit word 0 then after (execHrStart h s) s else s

/-- KZ_HR_STATE (R345, R350). -/
def writeHrState (h : Nat) (word : W32) (s : State) : State :=
  if wbit word 1 && inService s.env s.eng h then after (execDriverFence ⟨h, false⟩ s) s
  else if wbit word 0 then after (execReadmit h s) s else s

/-- QS_RETRY of KZ_QS_REASON (R388, R392). -/
def writeQsReason (word : W32) (s : State) : State := if wbit word 30 then after (execQsRetry s) s else s

/-! ### W1C fields (R388, R389) -/

/-- W1C bits of KZ_ERR_STATUS. -/
def writeErrStatus (word : W32) (s : State) : State :=
  s.onEng { s.eng with errStatus := s.eng.errStatus &&& ~~~(maskWrite 0xFF word) }

/-- W1C bits of KZ_ERR_HR. -/
def writeErrHr (word : W32) (s : State) : State :=
  s.onEng { s.eng with errHr := s.eng.errHr &&& ~~~(maskWrite 0xFFF word) }

/-- W1C bits of KZ_REPAIR_STATUS. -/
def writeRepairStatus (word : W32) (s : State) : State :=
  s.onRep (fun r => { r with logLost := r.logLost && !wbit word 23, pvFail := r.pvFail && !wbit word 22 })

/-- W1C bit of KZ_SEC_STATUS. -/
def writeSecStatus (word : W32) (s : State) : State :=
  s.onEnv { s.env with sec := { s.env.sec with lcsInvalid := s.env.sec.lcsInvalid && !wbit word 21 } }

/-- KZ_PD_IRQ: enables are stored, status bits are cleared (R284). -/
def writePdIrq (d : Nat) (word : W32) (s : State) : State :=
  let s := s.onRegs (fun r => { r with pd := r.pd.upd d (fun x => { x with ie := maskWrite 0x70000 word }) })
  if s.eng.inReset then s
  else s.onEng (s.eng.onDom d (fun m =>
    { m with wrap := m.wrap && !wbit word 0, drop := m.drop && !wbit word 1, stall := m.stall && !wbit word 2 }))

/-! ### RW fields (R365, R388) -/

/-- KZ_BIST_OPPT; values outside R327 stop the slices in progress (R335). -/
def writeOppt (word : W32) (s : State) : State :=
  let s := s.onRegs (fun r => { r with bistOppt := maskWrite 0x0FFF0FFF word })
  if s.eng.inReset || opptOk s.env s.eng then s else s.onEng ((upTo 12).foldl cutSlice s.eng)

/-- A write that clears the lend bit of a borrowed unit stops its slice (R335). -/
def cutIf (h : Nat) (p : Turn → Bool) (s : State) : State :=
  if sliceOn s.eng h p then s.onEng (cutSlice s.eng h) else s

/-- KZ_LS_LEND. -/
def writeLend (g : Nat) (word : W32) (s : State) : State :=
  cutIf (g / 8) (fun t => t.tgt.code == 10 && t.tgt.pl == g % 8 && !wbit word t.tgt.unit)
    (s.onRegs (fun r => { r with lend := r.lend.put g (BitVec.ofNat 12 (fld word 11 0)) }))

/-- KZ_HR_LEND_HB. -/
def writeLendHb (h : Nat) (word : W32) (s : State) : State :=
  cutIf h (fun t => t.tgt.code == 11 && !wbit word t.tgt.unit)
    (s.onRegs (fun r => { r with hr := r.hr.upd h (fun x => { x with lendHb := maskWrite 0xFFFF word }) }))

/-- An RW register of a hedgerow. -/
def State.onHrRegs (s : State) (h : Nat) (f : HrRegs → HrRegs) : State :=
  s.onRegs (fun r => { r with hr := r.hr.upd h f })

/-- A setting of a hedgerow that may be written only while it is stopped (R365). -/
def stoppedHr (h : Nat) (s : State) : State :=
  spoilIf (blockRuns s && !hrIsStopped s.eng h) (fun j => j.g / 8 == h) s

/-- A setting that may be written only while the block is stopped (R365). -/
def stoppedBlock (s : State) : State := spoilIf (blockRuns s) (fun _ => true) s

/-- The privet set-up: ignored without the privet bank and while LOCK is 1 (R365, R387, R401). -/
def writePrivet (s : State) (f : Sec → Sec) : State :=
  if !s.env.cfg.privet || locked s then s else s.onEnv { s.env with sec := f s.env.sec }

/-- A hedgerow's registers (R403). -/
def writeHr (h r : Nat) (word : W32) (s : State) : State :=
  match r with
  | 0x000 => if s.eng.inReset then s else writeHrState h word s
  | 0x004 => if s.eng.inReset then s else writeHrCtrl h word s
  | 0x008 => (s.onHrRegs h (fun x => { x with pwr := maskWrite 0xF word })).relax
  | 0x020 => stoppedHr h (s.onHrRegs h (fun x => { x with semWin := maskWrite 0x01FF00FF word }))
  | 0x024 => s.onHrRegs h (fun x => { x with memCfg := word })
  | 0x028 =>
    let s := s.onHrRegs h (fun x => { x with scCfg := word })
    s.onEng (s.eng.drive s.env h)
  | 0x02C => writeLendHb h word s
  | 0x030 => stoppedHr h (s.onHrRegs h (fun x => { x with saveLo := maskWrite 0xFFFF0000 word }))
  | 0x034 => stoppedHr h (s.onHrRegs h (fun x => { x with saveHi := maskWrite 0x000FFFFF word }))
  | 0x038 => s.onHrRegs h (fun x => { x with stageLo := maskWrite 0xFFFF0000 word })
  | 0x03C => s.onHrRegs h (fun x => { x with stageHi := maskWrite 0x000FFFFF word })
  | 0x040 => s.onHrRegs h (fun x => { x with stageSize := maskWrite 0x0000FFFF word })
  | _ => s

/-- A distributed tensor's registers (R402). -/
def writeDt (t r : Nat) (word : W32) (s : State) : State :=
  let put (f : DtRegs → DtRegs) : State := stoppedBlock (s.onRegs (fun x => { x with dt := x.dt.upd t f }))
  match r with
  | 0x00 => put (fun x => { x with aperLo := maskWrite 0xFFFF0000 word })
  | 0x04 => put (fun x => { x with aperHi := maskWrite 0x000FFFFF word })
  | 0x08 => put (fun x => { x with otLo := maskWrite 0xFFFF8000 word })
  | 0x0C => put (fun x => { x with otHi := maskWrite 0x000FFFFF word })
  | 0x10 => put (fun x => { x with shape := maskWrite 0x801F0FFF word })
  | _ => s

/-- An inbound window may be set: the block is stopped, or the window is closed and not busy (R365). -/
def winFree (s : State) (w : Nat) : Bool :=
  !blockRuns s || (!wbit s.eng.iwp.opened w && !winBusy s.eng w)

/-- An inbound window's registers (R402); without the port writes are ignored (R387). -/
def writeWin (w r : Nat) (word : W32) (s : State) : State :=
  let put (f : WinRegs → WinRegs) : State :=
    spoilIf (!winFree s w) (fun _ => true) (s.onRegs (fun x => { x with win := x.win.upd w f }))
  if !s.env.cfg.iwp then s
  else
    match r with
    | 0x00 => put (fun x => { x with lo := maskWrite 0xFFFFF000 word })
    | 0x04 => put (fun x => { x with hi := maskWrite 0x000FFFFF word })
    | 0x08 => put (fun x => { x with size := maskWrite 0x000FFFFF word })
    | _ => s

/-- A period domain's registers (R402). -/
def writeDomain (d r : Nat) (word : W32) (s : State) : State :=
  match r with
  | 0x00 => writePdCfg s d word
  | 0x10 => writePdIrq d word s
  | _ => s

/-- The block-level RW registers (R393). -/
def writeBlockRw (off : Nat) (word : W32) (s : State) : State :=
  match off with
  | 0x0114 => s.onRegs (fun r => { r with errEnable := maskWrite 0x3FF word ||| 0x400 })
  | 0x0200 => stoppedBlock (s.onRegs (fun r => { r with dbBaseLo := maskWrite 0xFFFF0000 word }))
  | 0x0204 => stoppedBlock (s.onRegs (fun r => { r with dbBaseHi := maskWrite 0x000FFFFF word }))
  | 0x0208 => stoppedBlock (s.onRegs (fun r => { r with ringTblLo := maskWrite 0xFFFFF000 word }))
  | 0x020C => stoppedBlock (s.onRegs (fun r => { r with ringTblHi := maskWrite 0x000FFFFF word }))
  | 0x0210 => s.onRegs (fun r => { r with pollCfg := maskWrite 0x0FFFFFFF word })
  | 0x0220 => s.onRegs (fun r => { r with sliceCfg := maskWrite 0x001FFFFF word })
  | 0x0300 => s.onRegs (fun r => { r with fabTmo := word })
  | 0x0308 => s.onRegs (fun r => { r with memWake := word })
  | 0x0400 => s.onRegs (fun r => { r with bistCfg := maskWrite 0x8000FFFF word })
  | 0x0404 => writeOppt word s
  | 0x0508 => spoilIf (blockRuns s && s.env.cfg.privet && !locked s) (fun _ => true)
      (writePrivet s (fun x => { x with saveBase := maskWrite 0x00070000 word }))
  | 0x050C => writePrivet s (fun x => { x with stageBase := maskWrite 0x00070000 word })
  | 0x0510 => writePrivet s (fun x => { x with stageSize := maskWrite 0x0000000F word })
  | 0x0700 => stoppedBlock (s.onRegs (fun r => { r with nodeId := maskWrite 0x3F word }))
  | _ => s

/-- The block-level registers that act or clear in the fc domain; ignored while kz_rst_n is low (R392). -/
def writeBlockFc (off : Nat) (word : W32) (s : State) : State :=
  if s.eng.inReset then s
  else
    match off with
    | 0x0100 => writeCtrl word s
    | 0x0110 => writeErrStatus word s
    | 0x0118 => writeErrHr word s
    | 0x0120 => writeCntClear word s
    | 0x0240 => after (execRcFlush 0 word s) s
    | 0x0244 => after (execRcFlush 1 word s) s
    | 0x0248 => after (execRcFlush 2 word s) s
    | 0x0408 => writeRepairStatus word s
    | 0x0410 => after (execSoftRepair word s) s
    | 0x0704 => after (execIwpOpenSet word s) s
    | 0x0708 => after (execIwpOpenClr word s) s
    | _ => s

/-- The block-level registers (R393). -/
def writeBlock (off : Nat) (word : W32) (s : State) : State :=
  match off with
  | 0x0010 => after (execGenNegWrite word s) s
  | 0x0108 => writeQsReason word s
  | 0x0500 => writeSecCfg word s
  | 0x0504 => writeSecStatus word s
  | off => writeBlockFc off word (writeBlockRw off word s)

/-- A write to the window; one where no register lies is ignored (R302, R386, R387). -/
def writeReg (addr : Nat) (word : W32) (s : State) : State :=
  let off := addr % 65536 / 4 * 4
  if off < 0x1000 then writeBlock off word s
  else if off < 0x1200 then
    (if s.env.cfg.phase then writeDomain ((off - 0x1000) / 0x20) (off % 0x20) word s else s)
  else if off < 0x2000 then s
  else if off < 0x2400 then writeDt ((off - 0x2000) / 0x20) (off % 0x20) word s
  else if off < 0x2600 then writeWin ((off - 0x2400) / 0x10) (off % 0x10) word s
  else if off < 0x3000 then s
  else if off < 0x3180 then
    (if s.env.isPl ((off - 0x3000) / 4) then writeLend ((off - 0x3000) / 4) word s else s)
  else if off < 0x8000 then s
  else if off < 0xB000 then
    (if s.env.isHr ((off - 0x8000) / 0x400) then writeHr ((off - 0x8000) / 0x400) (off % 0x400) word s else s)
  else s

/-- REGISTER_WRITE (R302, R388; log 6). -/
def execRegisterWrite (off : Nat) (word : W32) (s : State) : Out := .next (writeReg off word s)

end Sys2Proof.Machine
end

