-- ==== Sys2Proof/Machine/Dispatch.lean ====
section
/-! DEFINITION. The meaning of every command, one arm each. -/

namespace Sys2Proof.Machine

open Sys2Proof

/-- The effect of a command on everything but the queue. -/
def exec (i : Instr) (s : State) : Host.Outcome State Fault Refusal :=
  match i with
  | .powerOnReset => Sys2Proof.Machine.execPowerOnReset s
  | .mgmtReset => Sys2Proof.Machine.execMgmtReset s
  | .coreReset => Sys2Proof.Machine.execCoreReset s
  | .start => Sys2Proof.Machine.execStart s
  | .fuseWord word last => Sys2Proof.Machine.execFuseWord word last s
  | .logicTestEnd f => Sys2Proof.Machine.execLogicTestEnd f s
  | .memoryTestEnd f => Sys2Proof.Machine.execMemoryTestEnd f s
  | .fuseTmo => Sys2Proof.Machine.execFuseTmo s
  | .startTmo => Sys2Proof.Machine.execStartTmo s
  | .pwrAck h k level => Sys2Proof.Machine.execPwrAck h k level s
  | .powerDownRequest h k => Sys2Proof.Machine.execPowerDownRequest h k s
  | .memoryClearDone h k => Sys2Proof.Machine.execMemoryClearDone h k s
  | .run => Sys2Proof.Machine.execRun s
  | .drainingStop => Sys2Proof.Machine.execDrainingStop s
  | .abortiveStop => Sys2Proof.Machine.execAbortiveStop s
  | .blockStopped => Sys2Proof.Machine.execBlockStopped s
  | .hrDrainingStop h => Sys2Proof.Machine.execHrDrainingStop h s
  | .hrAbortiveStop h => Sys2Proof.Machine.execHrAbortiveStop h s
  | .hrStopped h => Sys2Proof.Machine.execHrStopped h s
  | .hrStart h => Sys2Proof.Machine.execHrStart h s
  | .driverFence h => Sys2Proof.Machine.execDriverFence h s
  | .fenceDrainComplete h => Sys2Proof.Machine.execFenceDrainComplete h s
  | .readmit h => Sys2Proof.Machine.execReadmit h s
  | .readmitTestStart h => Sys2Proof.Machine.execReadmitTestStart h s
  | .readmitTestEnd h cmp pl spare => Sys2Proof.Machine.execReadmitTestEnd h cmp pl spare s
  | .rcFlush n bits => Sys2Proof.Machine.execRcFlush n bits s
  | .cntClearBlock => Sys2Proof.Machine.execCntClearBlock s
  | .cntClearHedgerow => Sys2Proof.Machine.execCntClearHedgerow s
  | .cntClearDomain => Sys2Proof.Machine.execCntClearDomain s
  | .cntClearRemote => Sys2Proof.Machine.execCntClearRemote s
  | .softRepair word => Sys2Proof.Machine.execSoftRepair word s
  | .repairLogRead => Sys2Proof.Machine.execRepairLogRead s
  | .qsRetry => Sys2Proof.Machine.execQsRetry s
  | .iwpOpenSet bits => Sys2Proof.Machine.execIwpOpenSet bits s
  | .iwpOpenClr bits => Sys2Proof.Machine.execIwpOpenClr bits s
  | .pdEnable d word => Sys2Proof.Machine.execPdEnable d word s
  | .pdDisable d word => Sys2Proof.Machine.execPdDisable d word s
  | .pdRebind d word => Sys2Proof.Machine.execPdRebind d word s
  | .genNegWrite word => Sys2Proof.Machine.execGenNegWrite word s
  | .secLock word => Sys2Proof.Machine.execSecLock word s
  | .registerWrite off word => Sys2Proof.Machine.execRegisterWrite off word s
  | .pollTick => Sys2Proof.Machine.execPollTick s
  | .summaryLineReturn tag line psn code => Sys2Proof.Machine.execSummaryLineReturn tag line psn code s
  | .doorbellLineReturn tag line psn code => Sys2Proof.Machine.execDoorbellLineReturn tag line psn code s
  | .ringTableReturn tag entry psn code => Sys2Proof.Machine.execRingTableReturn tag entry psn code s
  | .descriptorReturn tag slot psn code => Sys2Proof.Machine.execDescriptorReturn tag slot psn code s
  | .descriptorFetchResume => Sys2Proof.Machine.execDescriptorFetchResume s
  | .ringFenceRelease ring => Sys2Proof.Machine.execRingFenceRelease ring s
  | .admissionCompare => Sys2Proof.Machine.execAdmissionCompare s
  | .jobSelect g => Sys2Proof.Machine.execJobSelect g s
  | .jobStart g => Sys2Proof.Machine.execJobStart g s
  | .stagingCopyStart g => Sys2Proof.Machine.execStagingCopyStart g s
  | .stagingCopyComplete g => Sys2Proof.Machine.execStagingCopyComplete g s
  | .sliceQuantum g n => Sys2Proof.Machine.execSliceQuantum g n s
  | .saveRecordDone g slot => Sys2Proof.Machine.execSaveRecordDone g slot s
  | .restoreDone g => Sys2Proof.Machine.execRestoreDone g s
  | .programFetchReturn g => Sys2Proof.Machine.execProgramFetchReturn g s
  | .endJob g => Sys2Proof.Machine.execEndJob g s
  | .tld g => Sys2Proof.Machine.execTld g s
  | .tst g => Sys2Proof.Machine.execTst g s
  | .tperm g => Sys2Proof.Machine.execTperm g s
  | .txp g => Sys2Proof.Machine.execTxp g s
  | .tgath g => Sys2Proof.Machine.execTgath g s
  | .tscat g => Sys2Proof.Machine.execTscat g s
  | .tplane g => Sys2Proof.Machine.execTplane g s
  | .tswz g => Sys2Proof.Machine.execTswz g s
  | .tfillFill g => Sys2Proof.Machine.execTfillFill g s
  | .tfillPad g => Sys2Proof.Machine.execTfillPad g s
  | .tcat g => Sys2Proof.Machine.execTcat g s
  | .tmovCopy g => Sys2Proof.Machine.execTmovCopy g s
  | .tmovHeaderWrite g => Sys2Proof.Machine.execTmovHeaderWrite g s
  | .tmovALoad g => Sys2Proof.Machine.execTmovALoad g s
  | .tmovAAdd g => Sys2Proof.Machine.execTmovAAdd g s
  | .tmovCLoad g => Sys2Proof.Machine.execTmovCLoad g s
  | .tmovNop g => Sys2Proof.Machine.execTmovNop g s
  | .pwait g => Sys2Proof.Machine.execPwait g s
  | .pwaitComplete g ph => Sys2Proof.Machine.execPwaitComplete g ph s
  | .loop g => Sys2Proof.Machine.execLoop g s
  | .br g => Sys2Proof.Machine.execBr g s
  | .fenceInstr g => Sys2Proof.Machine.execFenceInstr g s
  | .sync g collide => Sys2Proof.Machine.execSync g collide s
  | .syncPoll g collide => Sys2Proof.Machine.execSyncPoll g collide s
  | .routeBuildDone g => Sys2Proof.Machine.execRouteBuildDone g s
  | .instructionRetire g id refusals => Sys2Proof.Machine.execInstructionRetire g id refusals s
  | .fabricReadResponse h tag data psn code last => Sys2Proof.Machine.execFabricReadResponse h tag data psn code last s
  | .fabricWriteResponse path tag code => Sys2Proof.Machine.execFabricWriteResponse path tag code s
  | .fabricTimeout path tag => Sys2Proof.Machine.execFabricTimeout path tag s
  | .completionRecord collide => Sys2Proof.Machine.execCompletionRecord collide s
  | .sourceWrap wraps ph => Sys2Proof.Machine.execSourceWrap wraps ph s
  | .pdStall d => Sys2Proof.Machine.execPdStall d s
  | .windowOpen ph => Sys2Proof.Machine.execWindowOpen ph s
  | .windowClose ph => Sys2Proof.Machine.execWindowClose ph s
  | .iwpInbound win addr src id sc data => Sys2Proof.Machine.execIwpInbound win addr src id sc data s
  | .iwpResponseAccepted => Sys2Proof.Machine.execIwpResponseAccepted s
  | .clkReqRaise => Sys2Proof.Machine.execClkReqRaise s
  | .clkAckRaise => Sys2Proof.Machine.execClkAckRaise s
  | .clkReqLower => Sys2Proof.Machine.execClkReqLower s
  | .memQuiesce level => Sys2Proof.Machine.execMemQuiesce level s
  | .memTrain level => Sys2Proof.Machine.execMemTrain level s
  | .retentionEntry m => Sys2Proof.Machine.execRetentionEntry m s
  | .retentionWakeDone m => Sys2Proof.Machine.execRetentionWakeDone m s
  | .lcsRegister code fcStopped => Sys2Proof.Machine.execLcsRegister code fcStopped s
  | .tamper fcStopped => Sys2Proof.Machine.execTamper fcStopped s
  | .wipeReadback => Sys2Proof.Machine.execWipeReadback s
  | .wipeEnd lines => Sys2Proof.Machine.execWipeEnd lines s
  | .testModeRise => Sys2Proof.Machine.execTestModeRise s
  | .bistTurn h => Sys2Proof.Machine.execBistTurn h s
  | .sliceStart h => Sys2Proof.Machine.execSliceStart h s
  | .secureSliceTimeout h => Sys2Proof.Machine.execSecureSliceTimeout h s
  | .sliceForced h => Sys2Proof.Machine.execSliceForced h s
  | .sliceEnd h obs rows => Sys2Proof.Machine.execSliceEnd h obs rows s
  | .reclaimRelease h => Sys2Proof.Machine.execReclaimRelease h s
  | .parityError h => Sys2Proof.Machine.execParityError h s
  | .networkAccess a => Sys2Proof.Machine.execNetworkAccess a s
  | .fcRestart ph => Sys2Proof.Machine.execFcRestart ph s

end Sys2Proof.Machine
end

