-- ==== Sys2Proof/Safety.lean ====
section
/-! DEFINITION. The terms in which claims are stated: what a command reaches, what it leaves alone, and the
invariants of the machine. -/

namespace Sys2Proof

open Sys2Proof.Machine

/-! ### Reaching a state -/

/-- Command `c` completes in `s` with a next state of which `p` holds. -/
def Reaches (c : Instr) (s : State) (p : State → Prop) : Prop := ∃ t, exec c s = .next t ∧ p t

/-- Command `c` is carried out in `s` and changes nothing. -/
def Idles (c : Instr) (s : State) : Prop := exec c s = .next s

/-! ### Frames -/

/-- Every byte of every memory of the block reads in `t` as in `s`. -/
def SameBytes (s t : State) : Prop := ∀ i a, t.eng.mem.byte i a = s.eng.mem.byte i a

/-- The registers, the security and always-on state, the repair state, the pins and the queue are kept. -/
def SameOutside (s t : State) : Prop := t.env = s.env ∧ t.pending = s.pending

/-- Nothing but pleacher `g` differs. -/
def OnlyPl (g : Nat) (s t : State) : Prop := ∃ p, t = s.onEng (s.eng.onPl g (fun _ => p))

/-- Nothing but hedgerow `h`'s fc-domain state differs. -/
def OnlyHr (h : Nat) (s t : State) : Prop := ∃ r, t = s.onEng (s.eng.onHr h (fun _ => r))

/-- Nothing but period domain `d` differs. -/
def OnlyDom (d : Nat) (s t : State) : Prop := ∃ m, t = s.onEng (s.eng.onDom d (fun _ => m))

/-- Every pleacher but `g` is kept. -/
def OtherPl (g : Nat) (s t : State) : Prop := ∀ k, k ≠ g → t.eng.pl.look k = s.eng.pl.look k

/-- Every hedgerow but `h` is kept. -/
def OtherHr (h : Nat) (s t : State) : Prop := ∀ k, k ≠ h → t.eng.hr.look k = s.eng.hr.look k

/-- Every job but the one in slot `k` is kept. -/
def OtherJobs (k : Nat × Nat) (s t : State) : Prop := ∀ x, x ≠ k → t.eng.jobAt x = s.eng.jobAt x

/-- Nothing differs but the Hedger, the hedgerows' service bits and slice turns, and what the write boxes of jobs that
leave the queue hold: what a change of the queue's heads, or a stop in progress, may still do (R242, R244-R246,
R362). -/
def OnlyHeads (s t : State) : Prop :=
  ∃ hed hr mem free cycle left,
    t = s.onEng { s.eng with hed := hed, hr := hr, mem := mem, free := free, cycle := cycle, left := left }

/-- A byte of a memory of the block lies in a claim's box, which wraps with the memory (R49). -/
def InBox (c : Claim) (i : Inst) (a : Nat) : Prop :=
  let size : Int := match i with | .bank _ => 2 ^ 20 | _ => 2 ^ 19
  c.inst = i ∧ ∃ x : Int, c.lo ≤ x ∧ x < c.hi ∧ (a : Int) % size = x % size

/-- Every byte of every memory of the block that lies in no box of `cs` reads in `t` as in `s`. -/
def KeptOutside (cs : Claim → Prop) (s t : State) : Prop :=
  ∀ i a, (∀ c, cs c → ¬InBox c i a) → t.eng.mem.byte i a = s.eng.mem.byte i a

/-- Nothing differs but what jobs do: the jobs, their pleachers, the hedgerows, the memories of the block, the
Hedger and the counters. -/
def OnlyWork (s t : State) : Prop :=
  ∃ cnt hed jobs pl hr mem free cycle left,
    t = s.onEng
      { s.eng with
        cnt := cnt, hed := hed, jobs := jobs, pl := pl, hr := hr, mem := mem, free := free, cycle := cycle
        left := left }

/-- The commands of a list complete one after the other. -/
def Runs : List Instr → State → State → Prop
  | [], s, t => t = s
  | c :: cs, s, t => ∃ u, exec c s = .next u ∧ Runs cs u t

/-- A transaction of the control port that waits or is outstanding. -/
def Asked (s : State) (who : CfpWho) (addr len : Nat) (sec : Bool) : Prop :=
  ∃ x ∈ s.eng.hed.cfpWant ++ s.eng.hed.cfpOut,
    x.who = who ∧ x.addr = addr ∧ x.len = len ∧ x.sec = sec ∧ x.timedOut = false

/-- Nothing but the Hedger differs. -/
def OnlyHed (s t : State) : Prop := ∃ h, t = s.onEng { s.eng with hed := h }

/-- A read of the Hedger is outstanding under a tag that no other control-port transaction uses. -/
def Reading (s : State) (tag : Nat) (x : CfpX) : Prop :=
  s.eng.hed.cfpOut.find? (fun y => y.tag == tag) = some x ∧ x.timedOut = false ∧ s.eng.phase ≠ .reset

/-- No stop of the block is in progress and no domain has a drop mark, so that no queued job is dropped. -/
def NoDrops (s : State) : Prop := s.eng.stop = none ∧ ∀ d, (s.eng.dom.look d).mark = none

/-- A tick has summary lines, doorbells or table entries to come. -/
def TickWaits (t : Tick) : Prop := t.lines ≠ [] ∨ t.got ≠ [] ∨ t.doorbells ≠ [] ∨ t.tables ≠ []

/-- A tick whose reads have all come and that has fetched nothing yet. -/
def TickReads (t : Tick) : Prop :=
  t.lines = [] ∧ t.got = [] ∧ t.doorbells = [] ∧ t.tables = [] ∧ t.fetching = false ∧ t.plan = [] ∧ t.fetched = []

/-- A tick that fetches, with nothing but descriptors to come. -/
def TickFetches (t : Tick) : Prop :=
  t.lines = [] ∧ t.got = [] ∧ t.doorbells = [] ∧ t.tables = [] ∧ t.fetching = true

/-- The rings met since the reset stand in ascending number. -/
def RingsSorted (s : State) : Prop := (s.eng.hed.rings.map (fun r => r.num)).Pairwise (· < ·)

/-- No ring but `n` has PEND set. -/
def OnlyPend (s : State) (n : Nat) : Prop := ∀ r ∈ s.eng.hed.rings, r.num ≠ n → r.pend = false

/-- The queue has room for `b` more descriptors of ring `n` (R243). -/
def RoomFor (s : State) (n b : Nat) : Prop := s.eng.hed.queue.length + b ≤ 512 ∧ ringEntries s.eng n + b ≤ 64

/-- Reads of `b` descriptors of ring `r`, from slot F mod N on, wait or are outstanding (R219). -/
def Fetching (s : State) (r : Ring) (b : Nat) : Prop :=
  ∀ i, i < b →
    Asked s (.descr r.num (r.f + BitVec.ofNat 32 i))
      ((r.ctx.descBase + 256 * ((r.f + BitVec.ofNat 32 i).toNat % 2 ^ (r.ctx.sizeLog2 + 1))) % 2 ^ 52) 256 r.secure

/-! ### Jobs and instructions -/

/-- No job of hedgerow `h` is yielding its pleacher. -/
def NoYields (s : State) (h : Nat) : Prop := ∀ p, p < 8 → (s.eng.pl.look (8 * h + p)).wait ≠ .yielding

/-- No transfer of a hedgerow's jobs waits to be issued. -/
def Quiet (s : State) (h : Nat) : Prop := ∀ j ∈ s.eng.jobs, j.g / 8 = h → j.xq = []

/-- Job `j` does nothing of its own: no transfer of it waits, no staging copy of it is in progress, and no built-in
program of it runs. -/
def Still (j : Job) : Prop := j.xq = [] ∧ j.stage ≠ .copying ∧ (j.desc.prog = true ∨ j.st ≠ .running)

/-- No job of hedgerow `h` does anything of its own. -/
def PlannerOnly (s : State) (h : Nat) : Prop := ∀ j ∈ s.eng.jobs, j.g / 8 = h → Still j

/-- No job of hedgerow `h` does anything of its own but the one in slot `k`. -/
def StillBut (s : State) (h : Nat) (k : Nat × Nat) : Prop := ∀ j ∈ s.eng.jobs, j.g / 8 = h → j.key ≠ k → Still j

/-- Hedge bank `h` serves requests at once: powered, awake, not being cleared, lent to no slice (R205, R208,
R331). -/
def BankServes (s : State) (h : Nat) : Prop :=
  s.env.isOff h 3 = false ∧ (s.eng.hr.look h).hbInit = false ∧ (s.eng.hr.look h).hbRet = .awake ∧
  (s.eng.hr.look h).turn = none

/-- A memory of the block serves a job's access at once: powered, awake, not being cleared, lent to no slice; the
privet bank where the access is admitted (R200, R205, R208, R331). -/
def MemServes (s : State) (secure : Bool) : Inst → Prop
  | .host => False
  | .privet => pvAdmits s.env s.eng secure = true
  | .leaf p =>
    s.env.isOff (p / 8) (groupOf p) = false ∧ bitOn (s.eng.hr.look (p / 8)).lsInit.toNat (p % 8 / 4) = false ∧
    (s.eng.hr.look (p / 8)).lsRet.look (p % 8) = .awake ∧ (s.eng.hr.look (p / 8)).turn = none
  | .bank h => BankServes s h

/-- Two places of bits have none in common. -/
def Apart (p q : Piece) : Prop := p.addr = q.addr → p.sh + p.n ≤ q.sh ∨ q.sh + q.n ≤ p.sh

/-- The byte at `a` after a patch of memory that held `old`. -/
def patched (p : Patch) (old : Nat → Byte) (a : Nat) : Byte :=
  match p.find? (fun x => x.1 == a) with
  | some x => patchByte x.2.1 x.2.2 (old a)
  | none => old a

/-- A transfer of job `j` that waits to be issued, or has been and is outstanding, at its own address. -/
def Moving (s : State) (j : Job) (write : Bool) (addr len : Nat) (data : List (Option Byte)) (psn : List Bool)
    (p : Purpose) : Prop :=
  (∃ r ∈ j.xq, r.write = write ∧ r.addr = addr ∧ r.len = len ∧ r.data = data ∧ r.psn = psn ∧ r.purpose = p) ∨
  (∃ x ∈ (s.eng.hr.look (j.g / 8)).xacts, x.owner = j.key ∧ x.write = write ∧ x.addr = addr ∧ x.len = len ∧
    x.data = data ∧ x.psn = psn ∧ x.purpose = p ∧ x.live = true ∧ x.timedOut = false)

/-- A write of job `j` that waits or is outstanding drives byte `x` at host address `a`. -/
def Stores (s : State) (j : Job) (a : Nat) (x : Byte) : Prop :=
  ∃ ad len data, Moving s j true ad len data [] .dest ∧ ad ≤ a ∧ data[a - ad]? = some (some x)

/-- Pleacher `g` may issue instruction `i` of job `j` now (R126, R130). -/
def MayIssue (s : State) (g : Nat) (j : Job) (i : Insn) : Prop :=
  g < 96 ∧ (s.eng.pl.look g).phase = .running ∧ (s.eng.pl.look g).wait = .none ∧ s.eng.curJob g = some j ∧
  (s.eng.pl.look g).insn = some i ∧ j.desc.prog = true ∧ j.st = .running ∧ j.status = none

/-- The pleacher after an instruction that only changes its context: PC moves on by 16 (R127, R128). -/
def stepped (p : Pleacher) (f : Ctx → Ctx) : Pleacher :=
  let q := refill { p with ctx := f p.ctx }
  { q with ctx := { q.ctx with pc := q.ctx.pc + 16 } }

/-- A row instruction `i` with flight `f` is issued on pleacher `g`: numbered by the ready counter with its
checkpoint, it joins the instructions in flight, the rows it reads pass the reuse latches, its context changes by
`after`, and PC moves on by 16 (R119, R127, R130, R159). -/
def issued (s : State) (g : Nat) (i : Insn) (f : Flight) (after : Ctx → Ctx) : State :=
  s.onEng
    { s.eng with
      stamp := s.eng.stamp + 1
      pl := s.eng.pl.upd g (fun p =>
        stepped
          { p with
            flights := p.flights ++ [{ f with id := s.eng.stamp, ckpt := p.ctx }]
            newest := s.eng.stamp
            latches := p.latchesAfter i } after) }

/-- The command that issues an instruction (R132): an unlisted opcode is END's. -/
def issueCommand (g : Nat) (i : Insn) : Instr :=
  match opOf i with
  | 0x01 => .tld g
  | 0x02 => .tst g
  | 0x03 => .tperm g
  | 0x04 => .txp g
  | 0x05 => .tgath g
  | 0x06 => .tscat g
  | 0x07 => .tplane g
  | 0x08 => .tswz g
  | 0x09 => if subOf i 0 1 = 0 then .tfillFill g else .tfillPad g
  | 0x0A => .tcat g
  | 0x0B =>
    match subOf i 0 3 with
    | 0 => .tmovCopy g
    | 1 => .tmovHeaderWrite g
    | 2 => .tmovALoad g
    | 3 => .tmovAAdd g
    | 4 => .tmovCLoad g
    | _ => .tmovNop g
  | 0x10 => .pwait g
  | 0x11 => .loop g
  | 0x12 => .br g
  | 0x13 => .fenceInstr g
  | 0x14 => .sync g false
  | _ => .endJob g

/-- A tile operand of an instruction: its shape and the bytes its register shows (R109, R115). -/
def operand (s : State) (g t o : Nat) : Byte := (s.eng.pl.look g).tileByte t o

/-- The status of job `j` once `st` has arisen for it: the first one stands, and of two that arose in one cycle
(`tie`: the command falls in the latest of them) the higher code (R238, log 77). -/
def statusAfter (s : State) (tie : Bool) (j : Job) (st : Status) : Status :=
  match j.status with
  | none => st
  | some old => if tie = true ∧ j.arose = s.eng.cycle ∧ old.code < st.code then st else old

/-- The job that holds a slot has status `x`. -/
def StatusAt (s : State) (k : Nat × Nat) (x : Status) : Prop := ∃ j, s.eng.jobAt k = some j ∧ j.status = some x

/-! ### What the tests of a start find (R336, R337, R339, R355) -/

/-- The pleachers of hedgerow `h` that the start tests and that a list of failing ones names. -/
def failing (v : Env) (l : List Nat) (h : Nat) : List Nat :=
  (upTo 8).filter (fun p => testsPl v (8 * h + p) && l.contains (8 * h + p))

/-- Failing units of one phase of a start. -/
structure Found where
  pleachers : List Nat
  spares : List Nat
  movers : List Nat
  comparators : List Nat
  deriving DecidableEq, Repr

/-- The unused spare of hedgerow `h` is found failing. -/
def Found.spareLost (f : Found) (s : State) (h : Nat) : Prop :=
  testsHr s.env h = true ∧ h ∈ f.spares ∧ (s.env.rep.hr.look h).spare = 1

/-- Hedgerow `h` has an unused spare that can take a failing pleacher's number. -/
def Found.spareTakes (f : Found) (s : State) (h : Nat) : Prop := (s.env.rep.hr.look h).spare = 1 ∧ ¬f.spareLost s h

/-- A logic failure of hedgerow `h` that no spare makes good: of a pleacher, or of a mover, a fabric port or the
completion staging. -/
def Found.logicLost (f : Found) (s : State) (h : Nat) : Prop :=
  let n := (failing s.env f.pleachers h).length
  (f.spareTakes s h ∧ 2 ≤ n) ∨ (¬f.spareTakes s h ∧ 1 ≤ n) ∨ (testsHr s.env h = true ∧ h ∈ f.movers)

/-- Hedgerow `h` starts fenced by what the phase found. -/
def Found.fences (f : Found) (s : State) (h : Nat) : Prop :=
  hrIsFenced s.eng h = false ∧ (f.logicLost s h ∨ (testsHr s.env h = true ∧ h ∈ f.comparators))

/-- What a phase of a start found has taken effect in `t`: PL_FAIL of every failing pleacher, the unused spare in the
place of the lowest of them, with its log entry, or out of use, and the fences with their causes (R337, R355, R396). -/
def Found.inEffect (f : Found) (s t : State) : Prop :=
  (∀ h, h < 12 →
    let r := s.eng.hr.look h
    let u := t.eng.hr.look h
    let x := s.env.rep.hr.look h
    let y := t.env.rep.hr.look h
    u = { r with plFail := u.plFail, fenceCause := u.fenceCause } ∧
    (∀ p, p < 8 → bitOn u.plFail.toNat p = (bitOn r.plFail.toNat p || decide (p ∈ failing s.env f.pleachers h))) ∧
    (f.fences s h → f.logicLost s h → u.fenceCause = 1) ∧
    (f.fences s h → ¬f.logicLost s h → u.fenceCause = 2) ∧
    (f.fences s h → wbit t.eng.errStatus 5 = true ∧ wbit t.eng.errHr h = true) ∧
    (¬f.fences s h → u.fenceCause = r.fenceCause ∧ wbit t.eng.errHr h = wbit s.eng.errHr h) ∧
    (f.spareLost s h → y.spare = 3 ∧ wbit t.eng.errStatus 7 = true) ∧
    (¬f.spareLost s h → x.spare ≠ 1 ∨ failing s.env f.pleachers h = [] →
      y.spare = x.spare ∧ y.spareFor = x.spareFor) ∧
    (f.spareTakes s h → ∀ p rest, failing s.env f.pleachers h = p :: rest →
      y.spare = 2 ∧ y.spareFor.toNat = p ∧ (t.eng.pl.look (8 * h + p)).routes = [] ∧
      (t.env.rep.logLost = false → ofFields [(28, 3), (24, h), (21, p)] ∈ t.env.rep.log))) ∧
  (∀ g, t.eng.pl.look g = s.eng.pl.look g ∨ t.eng.pl.look g = { s.eng.pl.look g with routes := [] }) ∧
  (∀ i, i < 32 → i ≠ 5 → i ≠ 7 → wbit t.eng.errStatus i = wbit s.eng.errStatus i) ∧
  ((∀ h, ¬f.fences s h) → wbit t.eng.errStatus 5 = wbit s.eng.errStatus 5)

/-- The start has failed for `reason`, and the outputs of the fc domain have fallen (R354, R356, R359). -/
def StartFailed (s t : State) (reason : BitVec 4) : Prop :=
  t.eng.phase = .failed ∧ t.env.ao = { s.env.ao with reason := reason, unresolved := false } ∧
  t.eng.iface = { s.eng.iface with clkAck := false } ∧
  t.eng.iwp = { s.eng.iwp with txs := [], want := [], out := [], resps := [] }

/-- A phase of a start ends: with `own`'s failure first, then for want of a hedgerow that could serve, and otherwise
the start goes on with `next` (R355). -/
def PhaseEnds (s t : State) (own : Bool) (reason : BitVec 4) (next : Phase) : Prop :=
  let left := ∃ h, testsHr s.env h = true ∧ hrIsFenced t.eng h = false
  (own = true → StartFailed s t reason) ∧
  (own = false → ¬left → StartFailed s t 5) ∧
  (own = false → left →
    t.eng.phase = next ∧ t.env.ao = s.env.ao ∧ t.eng.iface = s.eng.iface ∧ t.eng.iwp = s.eng.iwp)

/-! ### Invariants -/

/-- The bits of `mask` read 0. -/
abbrev Clear (mask : Nat) (w : W32) : Prop := w &&& BitVec.ofNat 32 mask = 0

/-- The reserved bits of every RW register are 0, GEN_NEG is 1 and the START_FAILED enable is 1 (R388,
R393, R395, R402, R403). -/
structure RegsInv (r : Regs) : Prop where
  genNeg : r.genNeg = 1
  errEnable : r.errEnable &&& 0xFFFFFC00#32 = 0x00000400#32
  dbBaseLo : Clear 0x0000FFFF r.dbBaseLo
  dbBaseHi : Clear 0xFFF00000 r.dbBaseHi
  ringTblLo : Clear 0x00000FFF r.ringTblLo
  ringTblHi : Clear 0xFFF00000 r.ringTblHi
  pollCfg : Clear 0xF0000000 r.pollCfg
  sliceCfg : Clear 0xFFE00000 r.sliceCfg
  bistCfg : Clear 0x7FFF0000 r.bistCfg
  bistOppt : Clear 0xF000F000 r.bistOppt
  nodeId : Clear 0xFFFFFFC0 r.nodeId
  pd : ∀ d, d < 16 → Clear 0x78000000 (r.pd.look d).cfg ∧ Clear 0xFFF8FFFF (r.pd.look d).ie
  dt : ∀ t, t < 32 →
    Clear 0x0000FFFF (r.dt.look t).aperLo ∧ Clear 0xFFF00000 (r.dt.look t).aperHi ∧
    Clear 0x00007FFF (r.dt.look t).otLo ∧ Clear 0xFFF00000 (r.dt.look t).otHi ∧
    Clear 0x7FE0F000 (r.dt.look t).shape
  win : ∀ w, w < 32 →
    Clear 0x00000FFF (r.win.look w).lo ∧ Clear 0xFFF00000 (r.win.look w).hi ∧
    Clear 0xFFF00000 (r.win.look w).size
  hr : ∀ h, h < 12 →
    Clear 0xFFFFFFF0 (r.hr.look h).pwr ∧ Clear 0xFE00FF00 (r.hr.look h).semWin ∧
    Clear 0xFFFF0000 (r.hr.look h).lendHb ∧ Clear 0x0000FFFF (r.hr.look h).saveLo ∧
    Clear 0xFFF00000 (r.hr.look h).saveHi ∧ Clear 0x0000FFFF (r.hr.look h).stageLo ∧
    Clear 0xFFF00000 (r.hr.look h).stageHi ∧ Clear 0xFFFF0000 (r.hr.look h).stageSize

/-- The commands that may change an RW field outside the security set-up: the resets that clear them and the
writes (R351, R388). -/
def writesRegs : Instr → Bool
  | .powerOnReset | .mgmtReset | .registerWrite _ _ | .pdEnable _ _ | .pdDisable _ _ | .pdRebind _ _
  | .genNegWrite _ => true
  | _ => false

/-- The commands that may change the security set-up (R351, R365). -/
def writesSec : Instr → Bool
  | .powerOnReset | .registerWrite _ _ | .secLock _ => true
  | _ => false

/-- The same for the security set-up (R372, R375, R401). -/
structure SecInv (x : Sec) : Prop where
  cfg : Clear 0x7FE20000 x.cfg
  saveBase : Clear 0xFFF8FFFF x.saveBase
  stageBase : Clear 0xFFF8FFFF x.stageBase
  stageSize : Clear 0xFFFFFFF0 x.stageSize

/-- The reset value of the register at a block-level offset of KPE-H12 (R393); 0 where none is listed. -/
def blockReset : Nat → W32
  | 0x0000 => 0x4F585742
  | 0x0004 => 0x4B5A0103
  | 0x0008 => 0xC060401F
  | 0x000C => 0x00083401
  | 0x0010 => 0x00000001
  | 0x0114 => 0x000007FF
  | 0x0210 => 0x08010400
  | 0x0220 => 0x00101000
  | 0x0224 => 0x00000C00
  | 0x0300 => 0x40404040
  | 0x0304 => 0x08000000
  | 0x0308 => 0x0FA007D0
  | 0x0400 => 0x00000100
  | 0x0404 => 0x035204E2
  | _ => 0

/-- The reset value of the register at an offset of KPE-H12 (R393, R402, R403). -/
def windowReset (off : Nat) : W32 :=
  if off < 0x1000 then blockReset off
  else if 0x1000 ≤ off && off < 0x1200 && off % 0x20 == 0 then 0x00010000
  else if 0x2000 ≤ off && off < 0x2400 && off % 0x20 == 0x10 then 0x000C0000
  else if 0x8000 ≤ off && off < 0xB000 && off % 0x400 == 0x024 then 0x00400010
  else 0

/-- The reserved bits of the register at an offset (R388, R393, R402, R403), for registers with RW fields. -/
def reservedBits (off : Nat) : Nat :=
  if off < 0x1000 then
    match off with
    | 0x0010 => 0xFFFFFFFC
    | 0x0114 => 0xFFFFF800
    | 0x0200 => 0x0000FFFF
    | 0x0204 => 0xFFF00000
    | 0x0208 => 0x00000FFF
    | 0x020C => 0xFFF00000
    | 0x0210 => 0xF0000000
    | 0x0220 => 0xFFE00000
    | 0x0400 => 0x7FFF0000
    | 0x0404 => 0xF000F000
    | 0x0500 => 0x7FE20000
    | 0x0508 => 0xFFF8FFFF
    | 0x050C => 0xFFF8FFFF
    | 0x0510 => 0xFFFFFFF0
    | 0x0700 => 0xFFFFFFC0
    | _ => 0
  else if 0x1000 ≤ off && off < 0x1200 then (if off % 0x20 == 0 then 0x78000000 else 0)
  else if 0x2000 ≤ off && off < 0x2400 then
    match off % 0x20 with
    | 0x00 => 0x0000FFFF
    | 0x04 => 0xFFF00000
    | 0x08 => 0x00007FFF
    | 0x0C => 0xFFF00000
    | 0x10 => 0x7FE0F000
    | _ => 0
  else if 0x2400 ≤ off && off < 0x2600 then
    match off % 0x10 with
    | 0x00 => 0x00000FFF
    | 0x04 => 0xFFF00000
    | 0x08 => 0xFFF00000
    | _ => 0
  else if 0x8000 ≤ off && off < 0xB000 then
    match off % 0x400 with
    | 0x020 => 0xFE00FF00
    | 0x030 => 0x0000FFFF
    | 0x034 => 0xFFF00000
    | 0x038 => 0x0000FFFF
    | 0x03C => 0xFFF00000
    | 0x040 => 0xFFFF0000
    | _ => 0
  else 0

/-- The bits of the register at an offset that read back as written, for the registers whose RW fields are not
locked, decoded or shared with other fields (R388, R393, R402, R403); 0 for every other offset. -/
def rwBits (off : Nat) : Nat :=
  if off < 0x1000 then
    match off with
    | 0x0200 => 0xFFFF0000
    | 0x0204 => 0x000FFFFF
    | 0x0208 => 0xFFFFF000
    | 0x020C => 0x000FFFFF
    | 0x0210 => 0x0FFFFFFF
    | 0x0220 => 0x001FFFFF
    | 0x0300 => 0xFFFFFFFF
    | 0x0308 => 0xFFFFFFFF
    | 0x0400 => 0x8000FFFF
    | 0x0404 => 0x0FFF0FFF
    | 0x0700 => 0x0000003F
    | _ => 0
  else if off < 0x1200 then (if off % 0x20 == 0 then 0x87FFFFFF else 0)
  else if off < 0x2000 then 0
  else if off < 0x2400 then
    match off % 0x20 with
    | 0x00 => 0xFFFF0000
    | 0x04 => 0x000FFFFF
    | 0x08 => 0xFFFF8000
    | 0x0C => 0x000FFFFF
    | 0x10 => 0x801F0FFF
    | _ => 0
  else if off < 0x2600 then
    match off % 0x10 with
    | 0x00 => 0xFFFFF000
    | 0x04 => 0x000FFFFF
    | 0x08 => 0x000FFFFF
    | _ => 0
  else if off < 0x8000 then 0
  else if off < 0xB000 then
    match off % 0x400 with
    | 0x020 => 0x01FF00FF
    | 0x024 => 0xFFFFFFFF
    | 0x028 => 0xFFFFFFFF
    | 0x030 => 0xFFFF0000
    | 0x034 => 0x000FFFFF
    | 0x038 => 0xFFFF0000
    | 0x03C => 0x000FFFFF
    | 0x040 => 0x0000FFFF
    | _ => 0
  else 0

/-- No register of KPE-H12 lies at an offset (R387, R393, R402, R403). -/
def unoccupied (off : Nat) : Bool :=
  if off < 0x1000 then
    !([0x0000, 0x0004, 0x0008, 0x000C, 0x0010, 0x0100, 0x0104, 0x0108, 0x0110, 0x0114, 0x0118, 0x0120, 0x0200, 0x0204,
      0x0208, 0x020C, 0x0210, 0x0220, 0x0224, 0x0228, 0x022C, 0x0240, 0x0244, 0x0248, 0x0300, 0x0304, 0x0308, 0x0400,
      0x0404, 0x0408, 0x040C, 0x0410, 0x0500, 0x0504, 0x0508, 0x050C, 0x0510, 0x0600, 0x0604, 0x0608, 0x060C, 0x0610,
      0x0614, 0x0618, 0x061C, 0x0620, 0x0624, 0x0700, 0x0704, 0x0708, 0x070C].contains off)
  else if off < 0x1200 then decide (0x1C ≤ off % 0x20)
  else if off < 0x1218 then false
  else if off < 0x2000 then true
  else if off < 0x2400 then decide (0x14 ≤ off % 0x20)
  else if off < 0x2600 then decide (0x0C ≤ off % 0x10)
  else if off < 0x3000 then true
  else if off < 0x3180 then false
  else if off < 0x8000 then true
  else if off < 0xB000 then
    decide (off % 0x400 ∈ [0x018, 0x01C]) || decide (0x044 ≤ off % 0x400 ∧ off % 0x400 < 0x080) ||
      decide (0x0B4 ≤ off % 0x400)
  else true

/-- The offsets of the counters that each bit of KZ_CNT_CLEAR clears (R399). -/
def blockCounter (off : Nat) : Bool := [0x0600, 0x0604, 0x0608, 0x060C].contains off
/-- The counters of every hedgerow. -/
def hedgerowCounter (off : Nat) : Bool :=
  decide (0x8000 ≤ off) && decide (off < 0xB000) && decide (0x080 ≤ off % 0x400) && decide (off % 0x400 ≤ 0x0B0)
/-- KZ_PD_LATE and KZ_PD_DISCARD of every domain. -/
def domainCounter (off : Nat) : Bool :=
  decide (0x1000 ≤ off) && decide (off < 0x1200) && (off % 0x20 == 0x14 || off % 0x20 == 0x18)
/-- The counters of the remote windows. -/
def remoteCounter (off : Nat) : Bool := [0x0610, 0x0614, 0x0618, 0x061C, 0x0620, 0x0624].contains off

/-- A row of the tables of R73 and R74: what NaN, infinity under SAT, infinity under WRAP, an overflow that saturates
and one that wraps are encoded as, without the sign bit, and the largest finite value in units of the smallest
subnormal. -/
structure FltRow where
  nan : Nat
  infSat : Nat
  infWrap : Nat
  overSat : Nat
  overWrap : Nat
  top : Nat
  deriving DecidableEq, Repr

/-- The rows of R73 and R74 with the largest finite values of R61: 2^128 - 2^104, 65504, 2^128 - 2^120, 448, 57344,
28, 7.5 and 6. -/
def fltRow : Flt → FltRow
  | .fp32 => ⟨0x7FC00000, 0x7F800000, 0x7F800000, 0x7F7FFFFF, 0x7F800000, (2 ^ 24 - 1) * 2 ^ 253⟩
  | .fp16 => ⟨0x7E00, 0x7C00, 0x7C00, 0x7BFF, 0x7C00, 65504 * 2 ^ 24⟩
  | .bf16 => ⟨0x7FC0, 0x7F80, 0x7F80, 0x7F7F, 0x7F80, (2 ^ 8 - 1) * 2 ^ 253⟩
  | .e4m3 => ⟨0x7F, 0x7E, 0x7F, 0x7E, 0x7F, 448 * 2 ^ 9⟩
  | .e5m2 => ⟨0x7E, 0x7C, 0x7C, 0x7B, 0x7C, 57344 * 2 ^ 16⟩
  | .e3m2 => ⟨0, 0x1F, 0x1F, 0x1F, 0x1F, 28 * 2 ^ 4⟩
  | .e2m3 => ⟨0, 0x1F, 0x1F, 0x1F, 0x1F, 60⟩
  | .e2m1 => ⟨0, 0x7, 0x7, 0x7, 0x7, 12⟩

/-- The sign bit that a NaN of the source gives its encoding: none in a format without NaN (R74). -/
def nanSign (f : Flt) (neg : Bool) : Nat :=
  if (fltRow f).nan = 0 then 0 else if neg then 2 ^ (f.width - 1) else 0

/-- emax of the formats with block scales (R79). -/
def mxMax : List (Fmt × Int) :=
  [(.mx .e4m3, 8), (.mx .e5m2, 15), (.mx .e3m2, 4), (.mx .e2m3, 2), (.mx .e2m1, 2), (.mxint8, 0)]

/-- The random value of R71, step by step in arithmetic modulo 2^32. -/
def mixed (seed i : Nat) : Nat :=
  let x := seed ^^^ (i * 0x9E3779B9 % 2 ^ 32)
  let x := x ^^^ (x / 2 ^ 16)
  let x := x * 0x7FEB352D % 2 ^ 32
  let x := x ^^^ (x / 2 ^ 15)
  let x := x * 0x846CA68B % 2 ^ 32
  let x := x ^^^ (x / 2 ^ 16)
  x / 2 ^ 16

/-- ⌊log2⌋ of a finite magnitude that is not 0. -/
def Val.logIs (v : Val) (l : Int) : Prop := ∃ s m e, v = .num s m e ∧ m ≠ 0 ∧ (lg m : Int) + e = l

/-- Every RW register reads 0 in its reserved bits. -/
def WindowInv (s : State) : Prop := RegsInv s.env.regs ∧ SecInv s.env.sec

/-- The three memories are in canonical form. -/
def MemInv (s : State) : Prop := s.eng.mem.bank.wf ∧ s.eng.mem.leaf.wf ∧ s.eng.mem.privet.wf

/-- The memories of the block, the tile registers of every pleacher and the bytes every job keeps are in canonical
form, no two jobs hold one slot (R20), and the rings stand in order. -/
structure BlockInv (s : State) : Prop where
  mem : MemInv s
  tiles : ∀ g, g < 96 → (s.eng.pl.look g).tile.wf
  kept : ∀ j ∈ s.eng.jobs, j.rd.wf ∧ j.idxAt.wf ∧ j.srcAt.wf ∧ j.copy.rd.wf
  slots : (s.eng.jobs.map Job.key).Nodup
  rings : RingsSorted s

end Sys2Proof
end

