-- ==== Sys2Proof/WellFormed.lean ====
section
/-! DEFINITION. Which commands are well formed: every unit number names a unit some configuration
has, every tag fits its field, every list of bytes has the length its port gives. The machine is
total and does not ask for it: a command that names no unit of the delivered configuration finds
its condition unmet and changes nothing (log 2). -/

namespace Sys2Proof

/-- A hedgerow number of the largest configuration (R7). -/
def hedgerowOk (h : Nat) : Bool := decide (h < 12)

/-- A pleacher's global number 8h + p in the largest configuration (R18). -/
def pleacherOk (g : Nat) : Bool := decide (g < 96)

/-- A power domain of a hedgerow: 0 to 3 (R367). -/
def powerDomainOk (k : Nat) : Bool := decide (k < 4)

/-- A period domain: 0 to 15 (R269). -/
def domainOk (d : Nat) : Bool := decide (d < 16)

/-- Leaf-store rows, bank rows and privet lines that exist: 768 rows and 8 spares (R185), 32 banks (R190) of
128 physical rows of 256 bytes and a spare, 4096 lines of 128 bytes (R199). -/
def memFailsOk (f : MemFails) : Bool :=
  f.leafRows.all (fun x => pleacherOk x.1 && decide (x.2 < 776)) &&
  f.bankRows.all (fun x => hedgerowOk x.1 && decide (x.2.1 < 32) && decide (x.2.2 < 129)) &&
  f.privetLines.all (fun x => decide (x < 4096)) &&
  f.pleachers.all pleacherOk && f.staging.all hedgerowOk

/-- The units a logic test names (R354). -/
def logicFailsOk (f : LogicFails) : Bool :=
  f.pleachers.all pleacherOk && f.spares.all hedgerowOk && f.movers.all hedgerowOk &&
  f.comparators.all hedgerowOk

/-- A path names a hedgerow's port, the control port or the inbound path (R303). -/
def pathOk : Path → Bool
  | .hfp h => hedgerowOk h
  | .cfp => true
  | .iwp => true

/-- A memory with a retention state (R204). -/
def retMemOk : RetMem → Bool
  | .leaf g => pleacherOk g
  | .bank h => hedgerowOk h

/-- The arrays an access through the test network names (R323). -/
def netOk : NetAccess → Bool
  | .wrapReset | .wrapSelect _ | .wrapShift _ | .wrapCapture | .wrapUpdate => true
  | .bistConfig _ _ | .bistConfigRead _ | .bistStart _ | .bistResult _ => true
  | .fuseView _ | .logRead => true
  | .softRepair _ => true
  | .leafRead g a => pleacherOk g && decide (a < 524288)
  | .leafWrite g a _ => pleacherOk g && decide (a < 524288)
  | .bankRead h a => hedgerowOk h && decide (a < 1048576)
  | .bankWrite h a _ => hedgerowOk h && decide (a < 1048576)
  | .tileRead g t a => pleacherOk g && decide (t < 9) && decide (a < 8192)
  | .tileWrite g t a _ => pleacherOk g && decide (t < 9) && decide (a < 8192)
  | .controlRead a => decide (a < 1572864)
  | .controlWrite a _ => decide (a < 1572864)
  | .privetRead a => decide (a < 524288)
  | .privetWrite a _ => decide (a < 524288)

/-- Well-formedness of a command. -/
def Instr.wf : Instr → Bool
  | .powerOnReset | .mgmtReset | .coreReset | .start => true
  | .fuseWord _ _ => true
  | .logicTestEnd f => logicFailsOk f
  | .memoryTestEnd f => memFailsOk f
  | .fuseTmo | .startTmo => true
  | .pwrAck h k _ | .powerDownRequest h k | .memoryClearDone h k => hedgerowOk h && powerDomainOk k
  | .run | .drainingStop | .abortiveStop | .blockStopped => true
  | .hrAbortiveStop h | .driverFence h => hedgerowOk h.val
  | .hrDrainingStop h | .hrStopped h | .hrStart h
  | .fenceDrainComplete h | .readmit h | .readmitTestStart h | .readmitTestEnd h _ _ _ => hedgerowOk h
  | .rcFlush i _ => decide (i < 3)
  | .cntClearBlock | .cntClearHedgerow | .cntClearDomain | .cntClearRemote => true
  | .softRepair _ | .repairLogRead | .qsRetry => true
  | .iwpOpenSet _ | .iwpOpenClr _ => true
  | .pdEnable d _ | .pdDisable d _ | .pdRebind d _ => domainOk d
  | .genNegWrite _ | .secLock _ => true
  | .registerWrite off _ => decide (off < 65536) && decide (off % 4 = 0)
  | .pollTick => true
  | .summaryLineReturn tag _ _ _ | .doorbellLineReturn tag _ _ _ | .ringTableReturn tag _ _ _
  | .descriptorReturn tag _ _ _ => decide (tag < 128)
  | .descriptorFetchResume => true
  | .ringFenceRelease ring => decide (ring < 65536)
  | .admissionCompare => true
  | .jobSelect g | .jobStart g | .stagingCopyStart g | .stagingCopyComplete g => pleacherOk g
  | .sliceQuantum g _ => pleacherOk g
  | .saveRecordDone g slot => pleacherOk g && decide (slot < 32)
  | .restoreDone g | .programFetchReturn g | .endJob g | .tld g | .tst g | .tperm g | .txp g
  | .tgath g | .tscat g | .tplane g | .tswz g | .tfillFill g | .tfillPad g | .tcat g
  | .tmovCopy g | .tmovHeaderWrite g | .tmovALoad g | .tmovAAdd g | .tmovCLoad g | .tmovNop g
  | .pwait g | .pwaitComplete g _ | .loop g | .br g | .fenceInstr g | .sync g _ | .syncPoll g _
  | .routeBuildDone g | .instructionRetire g _ _ => pleacherOk g
  | .fabricReadResponse h tag _ _ _ _ => hedgerowOk h && decide (tag < 512)
  | .fabricWriteResponse path tag _ => pathOk path && decide (tag < 1024)
  | .fabricTimeout path tag => pathOk path && decide (tag.val < 1024)
  | .completionRecord _ => true
  | .sourceWrap _ _ => true
  | .pdStall d => domainOk d
  | .windowOpen _ | .windowClose _ => true
  | .iwpInbound _ _ _ _ _ data => decide (data.bytes.length = 64 * (data.len.toNat + 1))
  | .iwpResponseAccepted => true
  | .clkReqRaise | .clkAckRaise | .clkReqLower | .memQuiesce _ | .memTrain _ => true
  | .retentionEntry m | .retentionWakeDone m => retMemOk m
  | .lcsRegister _ _ | .tamper _ | .wipeReadback => true
  | .wipeEnd lines => lines.all (fun x => decide (x < 4096))
  | .testModeRise => true
  | .bistTurn h | .sliceStart h | .secureSliceTimeout h | .sliceForced h | .reclaimRelease h
  | .parityError h => hedgerowOk h
  | .sliceEnd h _ rows => hedgerowOk h && rows.all (fun x => decide (x < 4096))
  | .networkAccess a => netOk a
  | .fcRestart _ => true

end Sys2Proof
end

