-- ==== Sys2Proof/Certificates/Slice0/Obligations.lean ====
section
/-! DEFINITION. The statements about the block, for the provers. Each names the rule it follows; what rests on a
choice of the model says so and names its log entry. -/

open Sys2Proof Sys2Proof.Machine

/-! ### The machine as a whole -/

/-- A step is the front command's effect on the state with the queue's rest; an empty queue idles (the model's
own form: log 2, log 3). -/
def Obligations.StepRunsTheFrontCommand : Prop :=
  (∀ (c : Instr) (s : State), step { s with pending := c :: s.pending } = exec c s) ∧
  (∀ (c : Instr) (rest : List Instr) (s : State),
    s.pending = c :: rest → step s = exec c { s with pending := rest }) ∧
  (∀ s : State, s.pending = [] → step s = .next s)

/-- Every command completes in every state. No command changes the queue of waiting commands or the delivered
configuration (R7, R9; log 2). -/
def Obligations.CommandsCompleteAndKeepTheQueue : Prop :=
  (∀ (c : Instr) (s : State), ∃ t, exec c s = .next t) ∧
  (∀ (c : Instr) (s t : State), exec c s = .next t → t.pending = s.pending ∧ t.env.cfg = s.env.cfg)

/-- Only the resets and the register writes named change an RW field, and only kz_por_n and a write change the
security set-up (R351, R388). -/
def Obligations.OnlyWritesAndResetsChangeRwFields : Prop :=
  ∀ (c : Instr) (s t : State), exec c s = .next t →
    (writesRegs c = false → t.env.regs = s.env.regs) ∧
    (writesSec c = false →
      t.env.sec.cfg = s.env.sec.cfg ∧ t.env.sec.saveBase = s.env.sec.saveBase ∧
      t.env.sec.stageBase = s.env.sec.stageBase ∧ t.env.sec.stageSize = s.env.sec.stageSize)

/-- While LOCK is 1, no command but kz_por_n changes the security set-up, LOCK itself among it (R351, R365,
R401). -/
def Obligations.LockHoldsTheSecuritySetUp : Prop :=
  ∀ (c : Instr) (s t : State), c ≠ .powerOnReset → wbit s.env.sec.cfg 31 = true → exec c s = .next t →
    t.env.sec.cfg = s.env.sec.cfg ∧ t.env.sec.saveBase = s.env.sec.saveBase ∧
    t.env.sec.stageBase = s.env.sec.stageBase ∧ t.env.sec.stageSize = s.env.sec.stageSize

/-- The tamper latch, once set, is cleared by kz_por_n alone, and while it is set no privet access is admitted
(R200, R351, R378). -/
def Obligations.TamperLatchHolds : Prop :=
  (∀ (c : Instr) (s t : State), c ≠ .powerOnReset → s.env.sec.tamper = true → exec c s = .next t →
    t.env.sec.tamper = true) ∧
  (∀ (v : Env) (e : Eng) (secure : Bool), v.sec.tamper = true → pvAdmits v e secure = false)

/-- Every step keeps the reserved bits of every RW register at 0, GEN_NEG at 1 and the START_FAILED enable at 1
(R388, R395, R396). Every step keeps the memories of the block, the tile registers and what every job keeps in
canonical form, and one job at most in a slot (R20, R247; log 11). -/
def Obligations.EveryStepKeepsReservedBitsClear : Prop :=
  (∀ s t : State, WindowInv s → step s = .next t → WindowInv t) ∧
  (∀ s t : State, BlockInv s → step s = .next t → BlockInv t)

/-- After reset the reserved bits are 0, the memories are in canonical form (log 11 for what memory reads), and no
slot holds a job. -/
def Obligations.ResetMeetsTheInvariants : Prop :=
  (WindowInv State.reset ∧ MemInv State.reset) ∧ BlockInv State.reset

/-! ### Resets and the start -/

/-- kz_por_n clears everything but the levels the chip drives (log 23), kz_mrst_n every RW field but the security
set-up, and the management port (log 45), kz_rst_n every fc-domain field and nothing else (R351, R353); kz_test_mode
is low after it (log 46). -/
def Obligations.EachResetClearsItsPart : Prop :=
  (∀ s : State, exec .powerOnReset s =
    .next
      { s with
        env := { Env.reset s.env.cfg with
          pins := { s.env.pins with pwrReq := Vector.replicate 12 0 } }
        eng := Eng.reset }) ∧
  (∀ s : State, exec .mgmtReset s =
    .next { s with env := { s.env with regs := Regs.reset, rdata := 0 } }) ∧
  (∀ s : State, exec .coreReset s =
    .next { s with env := { s.env with pins := { s.env.pins with testMode := false } }, eng := Eng.reset })

/-- After kz_por_n every register of KPE-H12 (log 1) reads its reset value, and an offset without a register
reads 0 (R386, R393, R402, R403). -/
def Obligations.WindowReadsItsResetValues : Prop :=
  ∀ off : Nat, off < 65536 → off % 4 = 0 → readReg State.reset off = windowReset off

/-- START after kz_por_n enters FUSE, arms every enabled domain again, and the levels of kz_clk_req, kz_mem_quiesce
and kz_mem_train take effect (R270, R311, R354); a kz_test_mode that is 1 already reads SCAN_READY = 1, because no
array holds anything yet (R381; log 46). In the POWER phase of a start, whether it follows FUSE or begins at
once: full or quickset, QS_RETRY cleared, FAILS counted up to 7, REASON set after a start that neither succeeded nor
failed, and the power requests (R354, R358, R360). -/
def Obligations.StartsArePhasedAndCounted : Prop :=
  (∀ s : State, s.eng.phase = .reset → s.env.ao.fuseDone = false →
     Reaches .start s (fun t =>
       t.eng.phase = .fuse ∧ t.env.ao.unresolved = true ∧ t.env.ao.prevOpen = s.env.ao.unresolved ∧
       (∀ d, d < 16 →
         t.eng.dom.look d =
           if s.env.cfg.phase && wbit (s.env.regs.pd.look d).cfg 31
           then { Domain.reset with st := .armed } else Domain.reset) ∧
       t = { s with
         env := { s.env with ao := { s.env.ao with prevOpen := s.env.ao.unresolved, unresolved := true } }
         eng := { s.eng with
           phase := .fuse, dom := t.eng.dom
           scanReady := s.env.pins.testMode && lcsScans s.env.sec.lcs
           iface := ⟨s.env.pins.clkReq, false, s.env.pins.quiesce, s.env.pins.train⟩ } })) ∧
  (let counts (open_ : Bool) (s t : State) : Prop :=
     let a := s.env.ao
     let qs := decide (3 ≤ a.fails.toNat) && !a.qsRetry
     t.env.ao = { a with
       qs := qs, qsRetry := false, fails := if a.fails = 7 then 7 else a.fails + 1
       reason := if open_ then 6 else a.reason, prevOpen := false
       fuseDone := true, unresolved := true } ∧
     (∀ h, h < 12 → t.env.pins.pwrReq.look h =
       if qs && decide (h < s.env.cfg.hedgerows) then (if h = 0 then 4 else 15) else 0) ∧
     t.env.pins.pwrAck = s.env.pins.pwrAck ∧
     t.eng.privetOn = (s.env.cfg.privet && !qs) ∧
     t.eng.phase = (if powerReady t.env then .logic else .power) ∧
     t.env.regs = s.env.regs ∧ t.env.sec = s.env.sec ∧ t.pending = s.pending
   (∀ s : State, s.eng.phase = .reset → s.env.ao.fuseDone = true →
     Reaches .start s (fun t => counts s.env.ao.unresolved s t ∧ t.env.rep = s.env.rep)) ∧
   (∀ (s : State) (w : W32), s.eng.phase = .fuse → s.env.ao.fuseDone = false → s.env.ao.unresolved = true →
     Reaches (.fuseWord w true) s (counts s.env.ao.prevOpen s)))

/-- A repair word from the fuse box: one for a leaf-store row gives that row the spare it names, one for a bank's
row gives it the bank's spare, one of KIND 3 maps the spare pleacher where there is one, and a later word stands over
an earlier use of either; words of another KIND and words that name what does not exist are ignored (R340, R341). The
words taken are kept (R323). -/
def Obligations.FuseWordMapsARow : Prop :=
  ∀ (s : State) (w : W32), s.env.ao.fuseDone = false →
    let h := bits w.toNat 24 4
    let g := 8 * h + bits w.toNat 21 3
    let spare := bits w.toNat 18 3
    let bank := bits w.toNat 13 5
    let row := bits w.toNat 0 10
    let kind := bits w.toNat 28 4
    let kept (x : Rep) : State := { s with env := { s.env with rep := { x with fuse := s.env.rep.fuse ++ [w] } } }
    (kind = 1 → h < s.env.cfg.hedgerows → row < 768 →
      Reaches (.fuseWord w false) s (fun t =>
        (let x := s.env.rep.leaf.look g
         t.env.rep.leaf.look g =
           { x with map := (spare, row) :: x.map.filter (fun p => p.1 != spare && p.2 != row) }) ∧
        (∀ k, k ≠ g → t.env.rep.leaf.look k = s.env.rep.leaf.look k) ∧
        t = kept { s.env.rep with leaf := t.env.rep.leaf })) ∧
    (kind = 2 → h < s.env.cfg.hedgerows → row < 128 →
      Reaches (.fuseWord w false) s (fun t =>
        (let x := s.env.rep.hr.look h
         t.env.rep.hr.look h = { x with map := (bank, row) :: x.map.filter (fun p => p.1 != bank) }) ∧
        (∀ k, k ≠ h → t.env.rep.hr.look k = s.env.rep.hr.look k) ∧
        t = kept { s.env.rep with hr := t.env.rep.hr })) ∧
    (kind = 3 → h < s.env.cfg.hedgerows → s.env.cfg.large = false →
      Reaches (.fuseWord w false) s (fun t =>
        t.env.rep.hr.look h =
          { s.env.rep.hr.look h with spare := 2, spareFor := BitVec.ofNat 3 (bits w.toNat 21 3) } ∧
        (∀ k, k ≠ h → t.env.rep.hr.look k = s.env.rep.hr.look k) ∧
        t = (kept { s.env.rep with hr := t.env.rep.hr }).onEng (s.eng.onPl g (fun p => { p with routes := [] })))) ∧
    (kind = 0 ∨ 3 < kind ∨ s.env.cfg.hedgerows ≤ h ∨ (kind = 1 ∧ 768 ≤ row) ∨ (kind = 2 ∧ 128 ≤ row) ∨
        (kind = 3 ∧ s.env.cfg.large = true) →
      exec (.fuseWord w false) s = .next (kept s.env.rep))

/-- The failures that end a start, with the REASON each leaves: FUSE_TMO 1, START_TMO 2, UNIT_FAIL 3,
CTRL_MEM_FAIL 4, NO_HEDGEROW 5; the outputs of the fc domain fall (R354, R355, R356, R359). What a phase found takes
effect at its end, whether or not the start fails: a failing pleacher takes an unused spare or fences its hedgerow with
LOGIC_FAIL, as a mover, a fabric port or the completion staging does, and a comparator fences with CMP_FAIL (R337,
R355). That a failing unused spare is out of use, with SPARE = 3 and the REPAIR cause of kz_err, is the model's reading
(log 53). A failing row of a memory is mapped to a spare row or its unit is FAILED, a
failing spare row that is not mapped is marked failed, and the first failing privet line is held (R336, R339, R355).
NO_HEDGEROW follows where every hedgerow the start tests is then fenced (R355); that UNIT_FAIL and CTRL_MEM_FAIL come
before it is log 93. The rows named are those that exist (log 60). Tests that find nothing lead from LOGIC
to MEMORY and from MEMORY to STOPPED, where every array holds zeros (R354). -/
def Obligations.TestsEndTheStart : Prop :=
  (let failed (s : State) (reason : BitVec 4) : State :=
     { s with
       env := { s.env with ao := { s.env.ao with reason := reason, unresolved := false } }
       eng := { s.eng with
         phase := .failed, iface := { s.eng.iface with clkAck := false }
         iwp := { s.eng.iwp with txs := [], want := [], out := [], resps := [] } } }
   (∀ s : State, s.eng.phase = .fuse → s.env.ao.fuseDone = false → exec .fuseTmo s = .next (failed s 1)) ∧
   (∀ s : State, s.eng.phase ∈ [Phase.fuse, .power, .logic, .memory] → exec .startTmo s = .next (failed s 2)) ∧
   (∀ s : State, s.eng.phase = .logic → exec (.logicTestEnd ⟨true, [], [], [], []⟩) s = .next (failed s 3)) ∧
   (∀ s : State, s.eng.phase = .memory → exec (.memoryTestEnd ⟨[], [], [], true, [], []⟩) s = .next (failed s 4))) ∧
  (∀ (s : State) (f : LogicFails), s.eng.phase = .logic →
     let found : Found := ⟨f.pleachers, f.spares, f.movers, f.comparators⟩
     Reaches (.logicTestEnd f) s (fun t =>
       found.inEffect s t ∧ PhaseEnds s t f.block 3 .memory ∧
       ((∀ h, ¬found.spareLost s h) → wbit t.eng.errStatus 7 = wbit s.eng.errStatus 7) ∧
       t.env.rep.leaf = s.env.rep.leaf ∧ t.env.rep.pvFail = s.env.rep.pvFail ∧ t.env.rep.pvLine = s.env.rep.pvLine ∧
       (∀ h, h < 12 → t.env.rep.hr.look h =
         { s.env.rep.hr.look h with
           spare := (t.env.rep.hr.look h).spare, spareFor := (t.env.rep.hr.look h).spareFor }) ∧
       t = { s with
         env := { s.env with rep := t.env.rep, ao := t.env.ao }
         eng := { s.eng with
           phase := t.eng.phase, iface := t.eng.iface, iwp := t.eng.iwp, hr := t.eng.hr, pl := t.eng.pl
           errStatus := t.eng.errStatus, errHr := t.eng.errHr } })) ∧
  (∀ (s : State) (f : MemFails), s.eng.phase = .memory → (Instr.memoryTestEnd f).wf = true →
     let found : Found := ⟨f.pleachers, [], f.staging, []⟩
     Reaches (.memoryTestEnd f) s (fun t =>
       found.inEffect s t ∧ PhaseEnds s t f.control 4 .stopped ∧
       (t.eng.phase = .stopped → ∀ i a, t.eng.mem.byte i a = 0) ∧
       (t.eng.phase = .failed → t.eng.mem = s.eng.mem) ∧
       (∀ g row, (g, row) ∈ f.leafRows → testsPl s.env g = true → g < 96 → row < 768 →
         (∃ x, (x, row) ∈ (t.env.rep.leaf.look g).map) ∨
         bitOn (t.env.rep.leaf.look g).failed.toNat (row / 64) = true) ∧
       (∀ g, (∀ row, (g, row) ∉ f.leafRows) → t.env.rep.leaf.look g = s.env.rep.leaf.look g) ∧
       (∀ h bank row, (h, bank, row) ∈ f.bankRows → testsHr s.env h = true → h < 12 → bank < 32 → row < 128 →
         (bank, row) ∈ (t.env.rep.hr.look h).map ∨ bitOn (t.env.rep.hr.look h).failed.toNat (row / 8) = true) ∧
       (∀ h, (∀ bank row, (h, bank, row) ∉ f.bankRows) →
         (t.env.rep.hr.look h).map = (s.env.rep.hr.look h).map ∧
         (t.env.rep.hr.look h).bad = (s.env.rep.hr.look h).bad ∧
         (t.env.rep.hr.look h).failed = (s.env.rep.hr.look h).failed) ∧
       (s.env.rep.pvFail = false → s.eng.privetOn = true → ∀ l ∈ f.privetLines, (∀ k ∈ f.privetLines, l ≤ k) →
         t.env.rep.pvFail = true ∧ t.env.rep.pvLine = BitVec.ofNat 12 l) ∧
       (s.env.rep.pvFail = true ∨ s.eng.privetOn = false ∨ f.privetLines = [] →
         t.env.rep.pvFail = s.env.rep.pvFail ∧ t.env.rep.pvLine = s.env.rep.pvLine) ∧
       t = { s with
         env := { s.env with rep := t.env.rep, ao := t.env.ao }
         eng := { s.eng with
           phase := t.eng.phase, iface := t.eng.iface, iwp := t.eng.iwp, hr := t.eng.hr, pl := t.eng.pl
           mem := t.eng.mem, errStatus := t.eng.errStatus, errHr := t.eng.errHr } })) ∧
  (∀ (s : State) (g row : Nat), s.eng.phase = .memory → testsPl s.env g = true → g < 96 → row < 776 →
     Reaches (.memoryTestEnd ⟨[(g, row)], [], [], false, [], []⟩) s (fun t =>
       (row < 768 →
         t.env.rep = (repairLeafRow s g row).env.rep ∧ t.eng.errStatus = (repairLeafRow s g row).eng.errStatus) ∧
       (∀ r, 768 ≤ row → (s.env.rep.leaf.look g).map.find? (fun p => p.1 == row - 768) = some (row - 768, r) →
         t.env.rep = (repairLeafRow s g r).env.rep ∧ t.eng.errStatus = (repairLeafRow s g r).eng.errStatus) ∧
       (768 ≤ row → (∀ p ∈ (s.env.rep.leaf.look g).map, p.1 ≠ row - 768) →
         row - 768 ∈ (t.env.rep.leaf.look g).bad ∧ t.env.rep.log = s.env.rep.log ∧
         (t.env.rep.leaf.look g).map = (s.env.rep.leaf.look g).map ∧
         (t.env.rep.leaf.look g).failed = (s.env.rep.leaf.look g).failed))) ∧
  (∀ (s : State) (h bank row : Nat), s.eng.phase = .memory → testsHr s.env h = true → h < 12 → bank < 32 → row < 128 →
     Reaches (.memoryTestEnd ⟨[], [(h, bank, row)], [], false, [], []⟩) s (fun t =>
       t.env.rep = (repairBankRow s h bank row).env.rep ∧
       t.eng.errStatus = (repairBankRow s h bank row).eng.errStatus)) ∧
  ((∀ s : State, s.eng.phase = .logic → (∃ h, testsHr s.env h = true ∧ hrIsFenced s.eng h = false) →
     exec (.logicTestEnd ⟨false, [], [], [], []⟩) s = .next (s.onEng { s.eng with phase := .memory })) ∧
   (∀ s : State, s.eng.phase = .memory → (∃ h, testsHr s.env h = true ∧ hrIsFenced s.eng h = false) →
     Reaches (.memoryTestEnd ⟨[], [], [], false, [], []⟩) s (fun t =>
       t = s.onEng { s.eng with phase := .stopped, mem := t.eng.mem } ∧
       (∀ i a, t.eng.mem.byte i a = 0))))

/-! ### Power, service, fences -/

/-- PWR_ACK: in a start the last acknowledgement at 0 ends the POWER phase; in operation the return of a domain's
supply resets the hedgerow's logic with its tile registers and route caches where it was off, or begins the clearing
of its memory; a withdrawal that is taken back before the logic went off leaves the pleachers as they are (R208, R348,
R354, R368). POWER_DOWN_REQUEST: a domain whose OFF bit is set in a stopped hedgerow is requested powered down; for the
logic, the hedgerow's route caches are emptied (R348, R367, R368). While a slice or a re-admission test holds the
domain the request waits (R335, R368). -/
def Obligations.PowerDomainsFollowTheHandshake : Prop :=
  (∀ (s : State) (h k : Nat), h < s.env.cfg.hedgerows → k < 4 →
     (∀ level : Bool, s.eng.phase = .power → s.env.ackBit h k ≠ level →
       Reaches (.pwrAck h k level) s (fun t =>
         t.env.ackBit h k = level ∧ t.env.pins.pwrReq = s.env.pins.pwrReq ∧
         (∀ h' k', (h', k') ≠ (h, k) → k' < 4 → t.env.ackBit h' k' = s.env.ackBit h' k') ∧
         t.eng = { s.eng with phase := if powerReady t.env then .logic else .power })) ∧
     (s.eng.up = true → s.env.ackBit h k = true → s.env.reqBit h k = false →
       Reaches (.pwrAck h k false) s (fun t =>
         t.env.ackBit h k = false ∧ t.env.pins.pwrReq = s.env.pins.pwrReq ∧ t.env.regs = s.env.regs ∧
         t.env.sec = s.env.sec ∧ t.env.rep = s.env.rep ∧ t.eng.jobs = s.eng.jobs ∧ t.eng.mem = s.eng.mem ∧
         OtherHr h s t ∧
         (k = 0 → (t.eng.hr.look h).logicOff = false ∧
           ((s.eng.hr.look h).logicOff = true →
             (∀ p, p < 8 → (t.eng.pl.look (8 * h + p)).routes = [] ∧ (t.eng.pl.look (8 * h + p)).tile = [] ∧
               (t.eng.pl.look (8 * h + p)).ctx.hdr = noHeaders ∧
               (t.eng.pl.look (8 * h + p)).latches = Latches.reset) ∧
             ∀ g, g / 8 ≠ h → t.eng.pl.look g = s.eng.pl.look g) ∧
           ((s.eng.hr.look h).logicOff = false → t.eng.pl = s.eng.pl)) ∧
         (k = 1 ∨ k = 2 → bitOn (t.eng.hr.look h).lsInit.toNat (k - 1) = true ∧ t.eng.pl = s.eng.pl) ∧
         (k = 3 → (t.eng.hr.look h).hbInit = true ∧ t.eng.pl = s.eng.pl)))) ∧
  (∀ (s : State) (h k : Nat), s.eng.up = true → h < s.env.cfg.hedgerows → k < 4 → s.env.reqBit h k = false →
     hrIsStopped s.eng h = true → s.env.ao.qs = false → wbit (s.env.regs.hr.look h).pwr k = true →
     (s.eng.hr.look h).turn = none → (k = 0 → (s.eng.hr.look h).testRun = false) →
     Reaches (.powerDownRequest h k) s (fun t =>
       t.env.reqBit h k = true ∧ t.env.pins.pwrAck = s.env.pins.pwrAck ∧
       (∀ h' k', (h', k') ≠ (h, k) → k' < 4 → t.env.reqBit h' k' = s.env.reqBit h' k') ∧
       t.env.regs = s.env.regs ∧ t.env.sec = s.env.sec ∧ t.env.rep = s.env.rep ∧
       t.eng.jobs = s.eng.jobs ∧ t.eng.mem = s.eng.mem ∧ OtherHr h s t ∧
       (k = 0 → ready t.env t.eng h = false ∧ ∀ p, p < 8 → (t.eng.pl.look (8 * h + p)).routes = []) ∧
       (k ≠ 0 → t.eng.pl = s.eng.pl))) ∧
  (∀ (s : State) (h : Nat), (s.eng.hr.look h).testRun = true → Idles (.powerDownRequest h 0) s) ∧
  (∀ (s : State) (h k : Nat) (x : Turn), (s.eng.hr.look h).turn = some x → x.st ≠ .waiting →
     k = 0 ∨ (x.tgt.code = 10 ∧ k = 1 + x.tgt.pl / 4) ∨ (x.tgt.code = 11 ∧ k = 3) →
     Idles (.powerDownRequest h k) s)

/-- MEMORY_CLEAR_DONE: the memory that was being cleared serves requests again, or is held in retention while its
hedgerow's logic is off (R367); where no job of the hedgerow waited for it, it holds zeros and every other memory is as
it was (R208). A powered memory that no slice holds and nothing asks for goes to retention when its idle count is not
0, keeps its bytes, and after its wake serves requests again; one that a SYNC, a program fetch or a slice asks for
stays awake (R204, R205, R207). -/
def Obligations.MemoriesClearAndSleep : Prop :=
  (∀ (s : State) (h : Nat), h < 12 →
     ((s.eng.hr.look h).hbInit = true → s.eng.jobsOf h = [] →
       Reaches (.memoryClearDone h 3) s (fun t =>
         (t.eng.hr.look h).hbInit = false ∧
         (t.eng.hr.look h).hbRet = (if (s.eng.hr.look h).logicOff then .retained else .awake) ∧
         (∀ a, t.eng.mem.byte (.bank h) a = 0) ∧
         (∀ i a, i ≠ .bank h → t.eng.mem.byte i a = s.eng.mem.byte i a) ∧ OtherHr h s t ∧
         t.eng.pl = s.eng.pl ∧ t.eng.jobs = s.eng.jobs ∧ SameOutside s t)) ∧
     (∀ k, 1 ≤ k → k ≤ 2 → bitOn (s.eng.hr.look h).lsInit.toNat (k - 1) = true → s.eng.jobsOf h = [] →
       Reaches (.memoryClearDone h k) s (fun t =>
         bitOn (t.eng.hr.look h).lsInit.toNat (k - 1) = false ∧
         (∀ p, p < 8 → (t.eng.hr.look h).lsRet.look p =
           if groupOf p = k then (if (s.eng.hr.look h).logicOff then .retained else .awake)
           else (s.eng.hr.look h).lsRet.look p) ∧
         (∀ g a, g / 8 = h → groupOf g = k → t.eng.mem.byte (.leaf g) a = 0) ∧
         (∀ i a, (∀ g, i = .leaf g → ¬(g / 8 = h ∧ groupOf g = k)) → t.eng.mem.byte i a = s.eng.mem.byte i a) ∧
         OtherHr h s t ∧ t.eng.pl = s.eng.pl ∧ t.eng.jobs = s.eng.jobs ∧ SameOutside s t))) ∧
  (∀ s : State,
     (∀ g, s.eng.phase = .running ∨ s.eng.phase = .stopped → g < 8 * s.env.cfg.hedgerows →
       (s.env.regs.hr.look (g / 8)).memCfg.toNat % 65536 ≠ 0 → s.env.isOff (g / 8) (1 + g % 8 / 4) = false →
       bitOn (s.eng.hr.look (g / 8)).lsInit.toNat (g % 8 / 4) = false → (s.eng.hr.look (g / 8)).turn = none →
       (s.eng.hr.look (g / 8)).lsRet.look (g % 8) = .awake →
       exec (.retentionEntry (.leaf g)) s =
         .next (s.onEng (s.eng.onHr (g / 8) (fun r => { r with lsRet := r.lsRet.put (g % 8) .retained })))) ∧
     (∀ h, s.eng.phase = .running ∨ s.eng.phase = .stopped → h < s.env.cfg.hedgerows →
       (s.env.regs.hr.look h).memCfg.toNat / 65536 ≠ 0 → s.env.isOff h 3 = false →
       (s.eng.hr.look h).hbInit = false → (s.eng.hr.look h).turn = none → (s.eng.hr.look h).hbRet = .awake →
       (∀ p, p < 8 → (s.eng.pl.look (8 * h + p)).fetch = [] ∧ (s.eng.pl.look (8 * h + p)).wait ≠ .sync ∧
         (s.eng.pl.look (8 * h + p)).wait ≠ .acting) →
       exec (.retentionEntry (.bank h)) s = .next (s.onEng (s.eng.onHr h (fun r => { r with hbRet := .retained })))) ∧
     (∀ h p, p < 8 → (s.eng.pl.look (8 * h + p)).fetch ≠ [] ∨ (s.eng.pl.look (8 * h + p)).wait = .sync ∨
         (s.eng.pl.look (8 * h + p)).wait = .acting →
       Idles (.retentionEntry (.bank h)) s) ∧
     (∀ h x, (s.eng.hr.look h).turn = some x →
       (x.tgt.code = 11 → Idles (.retentionEntry (.bank h)) s) ∧
       (∀ p, p < 8 → x.tgt.code = 10 → x.tgt.pl = p → Idles (.retentionEntry (.leaf (8 * h + p))) s)) ∧
     (∀ g, (s.eng.hr.look (g / 8)).lsRet.look (g % 8) = .waking → PlannerOnly s (g / 8) →
       exec (.retentionWakeDone (.leaf g)) s =
         .next (s.onEng (s.eng.onHr (g / 8) (fun r => { r with lsRet := r.lsRet.put (g % 8) .awake })))) ∧
     (∀ h, (s.eng.hr.look h).hbRet = .waking → PlannerOnly s h →
       exec (.retentionWakeDone (.bank h)) s = .next (s.onEng (s.eng.onHr h (fun r => { r with hbRet := .awake })))))

/-- RUN: the stopped block runs, every hedgerow that is not stopped, fenced or unready is in service and waits for no
START any more, a poll tick begins, and a full start has succeeded (R218, R349, R358, R363, R364; a hedgerow unready at
RUN is left out: log 55). -/
def Obligations.RunPutsHedgerowsInService : Prop :=
  ∀ s : State, s.eng.phase = .stopped →
    Reaches .run s (fun t =>
      t.eng.phase = .running ∧ t.eng.stop = none ∧ t.eng.left = false ∧ t.eng.ctl = [] ∧
      (∀ h, h < 12 →
        (t.eng.hr.look h).mgmtIn =
          ((s.eng.hr.look h).mgmtIn ||
            (decide (h < s.env.cfg.hedgerows) && !(s.eng.hr.look h).stopped && !(s.eng.hr.look h).stopping &&
              (s.eng.hr.look h).fenceCause == 0 && ready s.env s.eng h)) ∧
        t.eng.hr.look h =
          { s.eng.hr.look h with
            mgmtIn := (t.eng.hr.look h).mgmtIn
            starting := (s.eng.hr.look h).starting && !(t.eng.hr.look h).mgmtIn }) ∧
      (s.eng.hed.tick = none →
        t.eng.hed.tick = some ⟨sumLines s.env, burstOf s.env, 0, upTo (sumLines s.env), [], [], [], false, [], []⟩) ∧
      t.env.ao = { s.env.ao with unresolved := false, fails := if s.env.ao.qs then s.env.ao.fails else 0 } ∧
      t.env.regs = s.env.regs ∧ t.env.sec = s.env.sec ∧ t.env.rep = s.env.rep ∧
      t.env.pins.pwrAck = s.env.pins.pwrAck ∧ t.eng.jobs = s.eng.jobs ∧ t.eng.mem = s.eng.mem ∧
      t.eng.pl = s.eng.pl ∧ t.eng.dom = s.eng.dom)

/-- Stops of the block: a draining stop is noted and ends the head of a ring that its window or its RING_FENCE holds,
without admission, and an abortive one replaces it; an abortive stop takes every hedgerow out of service, ABORTED_STOP
arises for every job in a slot, an earlier status or a higher one of the same cycle standing, and for every job of the
queue that its tick has handed over, the status of a failed descriptor read standing; with nothing left the block is
STOPPED (R223, R238, R244, R362). No byte of a memory changes but in write boxes of jobs that end with a status: of the
admitted ones those that had begun or that another status ends (log 8), and of the queued ones those that a drop mark
ends (R242, R361, R363; log 76). Whether an abortive stop falls in the cycle of the
latest status is a free value (log 77), and a timed-out read of the control port does not keep the block from being
STOPPED, although R362 waits for every transaction there (log 28). -/
def Obligations.BlockStops : Prop :=
  (∀ s : State, s.eng.phase = .running →
    Reaches .drainingStop s (fun t =>
      t.eng.stop = some (decide (s.eng.stop ≠ some false)) ∧
      (s.eng.stop ≠ some false → ∀ n q, s.eng.hed.head n = some q → (∃ r ∈ s.eng.hed.rings, r.num = n) →
        q.handed = true → q.bad = none →
        (match q.win with
         | some w => w.opened = false ∨ fenced s.eng q = true
         | none => if bindsNow s.env s.eng q.desc
             then (s.eng.dom.look q.desc.domain).mark ≠ some (fixWindow (s.eng.dom.look q.desc.domain) q.desc).inst ∧
               ((fixWindow (s.eng.dom.look q.desc.domain) q.desc).opened = false ∨ fenced s.eng q = true)
             else fenced s.eng q = true) →
        (∃ r ∈ t.eng.hed.ends, r.ring = n ∧ r.seq = q.seq ∧ r.key = none ∧ r.status = .abortedStop ∧
          r.tag = q.desc.tag) ∧
        (∀ i ∈ t.eng.hed.queue, ¬(i.ring = n ∧ i.seq = q.seq))) ∧
      KeptOutside (fun c => ∃ q ∈ s.eng.hed.queue, c ∈ q.writeBoxes s.env s.eng .droppedPeriod) s t ∧
      OnlyHeads (s.onEng { s.eng with stop := t.eng.stop }) t)) ∧
  (∀ s : State, s.eng.phase = .running →
    Reaches .abortiveStop s (fun t =>
      t.eng.stop = some false ∧ (∀ h, h < 12 → (t.eng.hr.look h).mgmtIn = false) ∧
      (∃ tie, ∀ k j, s.eng.jobAt k = some j → j.st ≠ .ended → StatusAt t k (statusAfter s tie j .abortedStop)) ∧
      (∀ q ∈ s.eng.hed.queue, q.handed = true →
        ∃ r ∈ t.eng.hed.ends, r.ring = q.ring ∧ r.seq = q.seq ∧ r.key = none ∧
          r.status = q.bad.getD .abortedStop) ∧
      (∀ q ∈ t.eng.hed.queue, q.handed = false) ∧
      (∀ j ∈ t.eng.jobs, ∀ w, j.win = some w → w.closed = true) ∧
      KeptOutside (fun c => c.write = true ∧ ∃ j ∈ s.eng.jobs, j.st ≠ .ended ∧
        (j.begun = true ∨ j.status ≠ none ∨ j.undef = true) ∧ c ∈ j.claims) s t ∧
      OnlyWork (s.onEng { s.eng with stop := some false, tie := false }) t)) ∧
  (∀ s : State, s.eng.phase = .running → s.eng.stop ≠ none → s.eng.hed.tick = none → s.eng.hed.queue = [] →
    s.eng.jobs = [] → s.eng.hed.ends = [] → s.eng.hed.cfpWant = [] →
    (∀ x ∈ s.eng.hed.cfpOut, x.timedOut = true) →
    Reaches .blockStopped s (fun t =>
      t.eng.phase = .stopped ∧ t.eng.stop = none ∧ (∀ h, h < 12 → (t.eng.hr.look h).mgmtIn = false) ∧
      t = s.onEng { s.eng with phase := .stopped, stop := none, left := false, hr := t.eng.hr }))

/-- A stop of one hedgerow that is not fenced takes it out of service, and it is STOPPED once no job holds a slot of
it; a fenced hedgerow is marked STOPPED, and its slice stops (R335) but for the turn that forced its fence, which
still waits for the drain (R349); an abortive stop ends its jobs (R364). That a re-admission test stops with it, and
that another turn that waits is dropped, is log 42. HR_START ends a hedgerow's stop, and one that is ready, powered
and not fenced is in service again while the block runs; it is ignored while LOGIC_OFF or HB_OFF is 1 (R364). -/
def Obligations.HedgerowsStopAndStart : Prop :=
  (∀ (s : State) (h : Nat), h < s.env.cfg.hedgerows →
     (s.eng.phase ≠ .reset → s.eng.phase ≠ .failed → hrIsFenced s.eng h = false →
       Reaches (.hrDrainingStop h) s (fun t =>
         (t.eng.hr.look h).mgmtIn = false ∧ (t.eng.hr.look h).stopping = !(s.eng.hr.look h).stopped ∧
         (t.eng.hr.look h).stopped = (s.eng.hr.look h).stopped ∧ OnlyHr h s t) ∧
       ∀ tie, Reaches (.hrAbortiveStop ⟨h, tie⟩) s (fun t =>
         (t.eng.hr.look h).mgmtIn = false ∧ (t.eng.hr.look h).stopping = !(s.eng.hr.look h).stopped ∧
         (∀ k j, s.eng.jobAt k = some j → j.g / 8 = h → j.st ≠ .ended →
           StatusAt t k (statusAfter s tie j .abortedStop)) ∧
         (∀ j ∈ t.eng.jobs, j.g / 8 = h → ∀ w, j.win = some w → w.closed = true) ∧
         (∀ k j, s.eng.jobAt k = some j → j.g / 8 ≠ h → t.eng.jobAt k = some j) ∧
         OnlyWork (s.onEng { s.eng with tie := false }) t)) ∧
     (s.eng.phase ≠ .reset → s.eng.phase ≠ .failed → hrIsFenced s.eng h = true →
       (∀ c tie, c = .hrDrainingStop h ∨ c = .hrAbortiveStop ⟨h, tie⟩ →
         exec c s = .next (s.onEng (s.eng.onHr h (fun r =>
           { r with
             stopped := true, starting := false, testCut := r.testCut || r.testRun
             turn := r.turn.bind (fun x =>
               if x.st = .waiting then (if x.forced = true then some x else none)
               else some { x with st := .clearing }) }))))) ∧
     ((s.eng.hr.look h).stopping = true → s.eng.jobsOf h = [] →
       exec (.hrStopped h) s =
         .next (s.onEng (s.eng.onHr h (fun r => { r with stopping := false, stopped := true }))))) ∧
  (∀ (s : State) (h : Nat), h < s.env.cfg.hedgerows → s.eng.phase = .running →
     (offBit s.env h 0 = false → offBit s.env h 3 = false →
       Reaches (.hrStart h) s (fun t =>
         (t.eng.hr.look h).stopped = false ∧ (t.eng.hr.look h).stopping = false ∧
         (hrIsFenced s.eng h = false → ready s.env s.eng h = true → s.env.isOff h 0 = false →
           s.env.isOff h 3 = false → (t.eng.hr.look h).mgmtIn = true) ∧
         t.eng = { s.eng with hr := t.eng.hr } ∧ OtherHr h s t ∧ t.env.regs = s.env.regs ∧ t.env.sec = s.env.sec ∧
         t.env.rep = s.env.rep ∧ t.env.ao = s.env.ao ∧ t.env.pins.pwrAck = s.env.pins.pwrAck)) ∧
     (offBit s.env h 0 = true ∨ offBit s.env h 3 = true → Idles (.hrStart h) s))

/-- A driver's fence: the hedgerow leaves service and drains with FENCE_CAUSE DRIVER, FENCED_UNIT arises for each of
its jobs, an earlier status or a higher one of the same cycle standing, their close entries are freed, its route
caches are invalidated and kz_err is raised; DRAINING ends with its last job (R105, R238, R345, R346). PARITY_ERROR is
latched; while MGMT_IN is 1 it fences the hedgerow with DISAGREE, raises kz_err, and leaves its jobs to run (R105,
R348); that MGMT_IN falls in the same command is the model's reading (log 43). -/
def Obligations.FencesAndDisagreement : Prop :=
  ((∀ (s : State) (h : Nat), inService s.env s.eng h = true →
     ∀ tie, Reaches (.driverFence ⟨h, tie⟩) s (fun t =>
       (t.eng.hr.look h).mgmtIn = false ∧ (t.eng.hr.look h).draining = true ∧ (t.eng.hr.look h).fenceCause = 5 ∧
       (∀ k j, s.eng.jobAt k = some j → j.g / 8 = h → j.st ≠ .ended → StatusAt t k (statusAfter s tie j .fencedUnit)) ∧
       (∀ j ∈ t.eng.jobs, j.g / 8 = h → ∀ w, j.win = some w → w.closed = true) ∧
       (∀ k j, s.eng.jobAt k = some j → j.g / 8 ≠ h → t.eng.jobAt k = some j) ∧
       (∀ p, p < 8 → (t.eng.pl.look (8 * h + p)).routes = []) ∧
       wbit t.eng.errStatus 5 = true ∧ wbit t.eng.errHr h = true ∧ SameOutside s t)) ∧
   (∀ (s : State) (h : Nat), (s.eng.hr.look h).draining = true → s.eng.busy h = false →
     exec (.fenceDrainComplete h) s = .next (s.onEng (s.eng.onHr h (fun r => { r with draining := false }))))) ∧
  (∀ (s : State) (h : Nat), h < s.env.cfg.hedgerows → s.eng.phase ≠ .reset → s.eng.phase ≠ .failed →
     Reaches (.parityError h) s (fun t =>
       (t.eng.hr.look h).parity = true ∧ ready t.env t.eng h = false ∧ t.eng.jobs = s.eng.jobs ∧
       (NoDrops s → t.eng.mem = s.eng.mem) ∧ SameOutside s t ∧
       ((s.eng.hr.look h).mgmtIn = true →
         (t.eng.hr.look h).mgmtIn = false ∧ (t.eng.hr.look h).draining = true ∧
         (t.eng.hr.look h).fenceCause = 4 ∧ wbit t.eng.errStatus 6 = true ∧ wbit t.eng.errHr h = true) ∧
       ((s.eng.hr.look h).mgmtIn = false →
         (t.eng.hr.look h).fenceCause = (s.eng.hr.look h).fenceCause ∧ t.eng.errStatus = s.eng.errStatus ∧
         t.eng.errHr = s.eng.errHr ∧ t.eng.pl = s.eng.pl)))

/-- READMIT begins the re-admission of a drained fenced hedgerow; the test starts when it is READY and in range, and
ends with BIST_OUT_OF_RANGE out of range (R348, R350 steps 1 and 2). The end of a re-admission test. With every result
PASS the fence ends, PL_FAIL is cleared, nine slices have passed, and the hedgerow is in service where the block runs
and the hedgerow is not stopped; with a failing comparator it stays fenced with READMIT_RES FAIL. The tile registers
are cleared and the route caches empty (R105, R334, R350). A stop that met the test met one of its three parts, and
which of them is a free value: the slices of that part are INCOMPLETE, those before it keep their results, and the
hedgerow stays fenced unless all had passed (R335, log 42). That the results count as those of slices do is log 49,
that a failing slice keeps FENCE_CAUSE is log 83, and that FAIL comes before INCOMPLETE in READMIT_RES is log 84. -/
def Obligations.ReadmissionRuns : Prop :=
  (∀ (s : State) (h : Nat), h < s.env.cfg.hedgerows →
     (s.eng.phase ≠ .reset → s.eng.phase ≠ .failed → hrIsFenced s.eng h = true →
       (s.eng.hr.look h).draining = false → (s.eng.hr.look h).testing = false →
       Reaches (.readmit h) s (fun t =>
         t.eng = s.eng.onHr h (fun r => { r with testing := true, parity := false }) ∧
         t.env.regs = s.env.regs ∧ t.env.sec = s.env.sec ∧ t.env.rep = s.env.rep ∧ t.env.ao = s.env.ao ∧
         t.env.pins.pwrAck = s.env.pins.pwrAck ∧ t.env.pins.testMode = s.env.pins.testMode)) ∧
     ((s.eng.hr.look h).testing = true → (s.eng.hr.look h).testRun = false → ready s.env s.eng h = true →
       (s.eng.hr.look h).turn = none →
       exec (.readmitTestStart h) s =
         .next (s.onEng (s.eng.onHr h (fun r =>
           if opptOk s.env s.eng then { r with testRun := true, testCut := false }
           else { r with readmitRes := 4, testing := false }))))) ∧
  (∀ (s : State) (h : Nat) (cmp spare : SliceObs), h < 12 → (s.eng.hr.look h).testRun = true →
     (s.eng.hr.look h).testCut = false → s.eng.stop = none → cmp.full = true →
     Reaches (.readmitTestEnd h cmp (Vector.replicate 8 ⟨true, true⟩) spare) s (fun t =>
       (t.eng.hr.look h).testing = false ∧ (t.eng.hr.look h).testRun = false ∧ t.env = s.env ∧
       (∀ p, p < 8 → (t.eng.pl.look (8 * h + p)).routes = [] ∧ (t.eng.pl.look (8 * h + p)).tile = [] ∧
         (t.eng.pl.look (8 * h + p)).ctx.hdr = noHeaders) ∧
       t.eng.jobs = s.eng.jobs ∧ (NoDrops s → t.eng.mem = s.eng.mem) ∧ t.pending = s.pending ∧
       OtherHr h s t ∧
       (cmp.sig = true →
         (t.eng.hr.look h).fenceCause = 0 ∧ (t.eng.hr.look h).readmitRes = 1 ∧ (t.eng.hr.look h).plFail = 0 ∧
         (t.eng.hr.look h).mgmtIn = (s.eng.phase == .running && !(s.eng.hr.look h).stopped)) ∧
       (cmp.sig = false →
         (t.eng.hr.look h).fenceCause = (s.eng.hr.look h).fenceCause ∧ (t.eng.hr.look h).readmitRes = 2 ∧
         (t.eng.hr.look h).mgmtIn = (s.eng.hr.look h).mgmtIn) ∧
       ((s.eng.hr.look h).cnt.bistPass.toNat + 9 < 2 ^ 32 →
         (t.eng.hr.look h).cnt.bistPass.toNat =
           (s.eng.hr.look h).cnt.bistPass.toNat + (if cmp.sig then 9 else 8)) ∧
       ((s.eng.hr.look h).cnt.bistFail.toNat + 1 < 2 ^ 32 →
         (t.eng.hr.look h).cnt.bistFail.toNat =
           (s.eng.hr.look h).cnt.bistFail.toNat + (if cmp.sig then 0 else 1)))) ∧
  (∀ (s : State) (h : Nat) (cmp spare : SliceObs) (pl : Tab SliceObs 8), h < 12 →
     (s.eng.hr.look h).testRun = true → (s.eng.hr.look h).testCut = true →
     Reaches (.readmitTestEnd h cmp pl spare) s (fun t =>
       let r := s.eng.hr.look h
       let u := t.eng.hr.look h
       let kept := u.fenceCause = r.fenceCause ∧ u.mgmtIn = r.mgmtIn ∧ t.env = s.env ∧ t.eng.jobs = s.eng.jobs ∧
         t.eng.mem = s.eng.mem ∧ OtherHr h s t
       let incomplete (n : Nat) : Prop :=
         r.cnt.bistInc.toNat + n < 2 ^ 32 → u.cnt.bistInc.toNat = r.cnt.bistInc.toNat + n
       u.testing = false ∧ u.testRun = false ∧ u.testCut = false ∧
       ∃ part, part < 3 ∧
         (part = 0 → kept ∧ u.readmitRes = 3 ∧ incomplete 1) ∧
         (part = 1 → kept ∧
           u.readmitRes = (if cmp.full = true ∧ cmp.sig = false then 2 else 3) ∧
           incomplete (if cmp.full = true then 8 else 9)) ∧
         (part = 2 → cmp = ⟨true, true⟩ → pl = Vector.replicate 8 ⟨true, true⟩ → s.eng.stop = none →
           u.readmitRes = 1 ∧ u.fenceCause = 0 ∧ t.env = s.env ∧ t.eng.jobs = s.eng.jobs ∧ OtherHr h s t) ∧
         (part = 2 → cmp = ⟨true, false⟩ → pl = Vector.replicate 8 ⟨true, true⟩ → kept ∧ u.readmitRes = 2)))

/-! ### The register window -/

/-- An RW register reads back what was last written in its RW bits and 0 in its others, and no write to it changes
another (R388, R393, R402, R403). So do the RW fields that stand beside RO ones or obey a lock: KZ_ERR_ENABLE with bit
10 at 1, KZ_HR_PWR, KZ_LS_LEND, KZ_HR_LEND_HB, and, while LOCK is 0, KZ_SEC_CFG and the privet set-up (R365, R372,
R396, R401). A register with RW fields reads 0 in its reserved bits (R388). -/
def Obligations.RwRegistersReadBack : Prop :=
  (∀ (s : State) (off : Nat) (w : W32), off < 65536 → off % 4 = 0 → rwBits off ≠ 0 →
     (0x1000 ≤ off → off < 0x1200 → s.env.cfg.phase = true) →
     (0x2400 ≤ off → off < 0x2600 → s.env.cfg.iwp = true) →
     (0x8000 ≤ off → (off - 0x8000) / 0x400 < s.env.cfg.hedgerows) →
     Reaches (.registerWrite off w) s (fun t =>
       readReg t off = w &&& BitVec.ofNat 32 (rwBits off) ∧
       (∀ o, o < 65536 → o % 4 = 0 → o ≠ off → rwBits o ≠ 0 → readReg t o = readReg s o) ∧
       t.env = { s.env with regs := t.env.regs } ∧ t.pending = s.pending)) ∧
  (∀ (s : State) (w : W32),
     let reads (off mask : Nat) : Prop :=
       Reaches (.registerWrite off w) s (fun t =>
         readReg t off &&& BitVec.ofNat 32 mask = w &&& BitVec.ofNat 32 mask ∧
         (∀ o, o < 65536 → o % 4 = 0 → o ≠ off → rwBits o ≠ 0 → readReg t o = readReg s o) ∧ t.pending = s.pending)
     Reaches (.registerWrite 0x0114 w) s (fun t => readReg t 0x0114 = (w &&& 0x3FF#32) ||| 0x400#32) ∧
     (∀ h, h < 12 → h < s.env.cfg.hedgerows → reads (0x8008 + 0x400 * h) 0xF ∧ reads (0x802C + 0x400 * h) 0xFFFF) ∧
     (∀ g, g < 96 → g < 8 * s.env.cfg.hedgerows → reads (0x3000 + 4 * g) 0xFFF) ∧
     (wbit s.env.sec.cfg 31 = false → reads 0x0500 0x801DFFFF) ∧
     (wbit s.env.sec.cfg 31 = false → s.env.cfg.privet = true →
       reads 0x0508 0x00070000 ∧ reads 0x050C 0x00070000 ∧ reads 0x0510 0x0000000F)) ∧
  (∀ (s : State) (off : Nat), WindowInv s → off < 65536 → off % 4 = 0 →
     readReg s off &&& BitVec.ofNat 32 (reservedBits off) = 0)

/-- What the configuration does not carry reads 0 and ignores writes: hedgerows from H on, pleachers from 8H on,
phase dispatch, the privet set-up and the remote window port where they are absent; the distributed tensors stay
(R387). -/
def Obligations.AbsentUnitsHaveNoRegisters : Prop :=
  let none (s : State) (off : Nat) : Prop := readReg s off = 0 ∧ ∀ w, Idles (.registerWrite off w) s
  ∀ (s : State) (off : Nat), off < 65536 → off % 4 = 0 →
    (0x8000 + 0x400 * s.env.cfg.hedgerows ≤ off → none s off) ∧
    (0x3000 + 4 * (8 * s.env.cfg.hedgerows) ≤ off → off < 0x8000 → none s off) ∧
    (s.env.cfg.phase = false → 0x1000 ≤ off → off < 0x1218 → none s off) ∧
    (s.env.cfg.privet = false → off ∈ [0x0508, 0x050C, 0x0510] → none s off) ∧
    (s.env.cfg.iwp = false →
      off ∈ [0x0704, 0x0708, 0x070C, 0x061C, 0x0620, 0x0624] ∨ (0x2400 ≤ off ∧ off < 0x2600) → none s off) ∧
    (s.env.cfg.iwp = false → 0x2000 ≤ off → off < 0x2400 → ∀ w,
      Reaches (.registerWrite off w) s (fun t => readReg t off = w &&& BitVec.ofNat 32 (rwBits off))) ∧
    (unoccupied off = true → none s off)

/-- Writes by access type: RO registers ignore them, W1C bits are cleared where 1 is written and kept where 0 is, the
W1S bit QS_RETRY is set (R388, R389). A write to a register with commands of its own is those commands: KZ_CTRL,
KZ_CNT_CLEAR, KZ_RC_FLUSH, KZ_SOFT_REPAIR, the open bits of the inbound windows, KZ_HR_STATE and KZ_HR_CTRL (R297,
R362-R364, R388; both ways to write: log 6). QS_RETRY is set, KZ_GEN_NEG stores 1 for every code, and LOCK stores the
security set-up and is then deaf (R365, R372, R395, R408). Writes to KZ_QS_REASON, KZ_SEC_STATUS and KZ_SEC_CFG take
effect while kz_rst_n is low too (log 52). That STOP acts alone where START is 1 too in one write of KZ_HR_CTRL is
log 51, and that a fence or a stop by a register write falls in a cycle of its own is log 77. -/
def Obligations.WritesActByAccessType : Prop :=
  ((∀ (s : State) (off : Nat) (w : W32),
     off ∈ [0x0000, 0x0004, 0x0008, 0x000C, 0x0104, 0x0224, 0x0228, 0x022C, 0x0304, 0x040C, 0x0600, 0x0604, 0x0608,
       0x060C, 0x0610, 0x0614, 0x0618, 0x061C, 0x0620, 0x0624, 0x070C, 0x1004, 0x1008, 0x100C, 0x1014, 0x1018,
       0x1200, 0x1214, 0x800C, 0x8010, 0x8014, 0x8080, 0x8084, 0x8088, 0x808C, 0x8090, 0x8094, 0x8098, 0x809C, 0x80A0,
       0x80A4, 0x80A8, 0x80AC, 0x80B0] → Idles (.registerWrite off w) s) ∧
   (∀ (s : State) (w : W32), s.eng.phase ≠ .reset →
     exec (.registerWrite 0x0110 w) s =
       .next (s.onEng { s.eng with errStatus := s.eng.errStatus &&& ~~~(w &&& 0xFF#32) }) ∧
     exec (.registerWrite 0x0118 w) s = .next (s.onEng { s.eng with errHr := s.eng.errHr &&& ~~~(w &&& 0xFFF#32) })) ∧
   (∀ (s : State) (w : W32),
     exec (.registerWrite 0x0108 w) s =
       .next { s with env := { s.env with ao := { s.env.ao with qsRetry := s.env.ao.qsRetry || wbit w 30 } } } ∧
     exec (.registerWrite 0x0504 w) s =
       .next { s with env := { s.env with sec := { s.env.sec with
         lcsInvalid := s.env.sec.lcsInvalid && !wbit w 21 } } }) ∧
   (∀ (s : State) (d : Nat) (w : W32), s.eng.phase ≠ .reset → s.env.cfg.phase = true → d < 16 →
     Reaches (.registerWrite (0x1010 + 0x20 * d) w) s (fun t =>
       (t.env.regs.pd.look d).ie = w &&& 0x00070000#32 ∧
       t.eng.dom.look d = { s.eng.dom.look d with
         wrap := (s.eng.dom.look d).wrap && !wbit w 0, drop := (s.eng.dom.look d).drop && !wbit w 1
         stall := (s.eng.dom.look d).stall && !wbit w 2 } ∧ t.eng = { s.eng with dom := t.eng.dom }))) ∧
  ((∀ s : State, exec .qsRetry s =
     .next { s with env := { s.env with ao := { s.env.ao with qsRetry := true } } }) ∧
   (∀ (s : State) (w : W32), Reaches (.genNegWrite w) s (fun t =>
     readReg t 0x0010 = 1 ∧ t = s.onEnv { s.env with regs := { s.env.regs with genNeg := 1 } })) ∧
   (∀ (s : State) (w : W32), wbit w 31 = true → wbit s.env.sec.cfg 31 = false → s.eng.phase ≠ .running →
     exec (.secLock w) s =
       .next (s.onEnv { s.env with sec := { s.env.sec with cfg := w &&& 0x801DFFFF#32 } })) ∧
   (∀ (s : State) (w : W32), wbit s.env.sec.cfg 31 = true → Idles (.secLock w) s) ∧
   (∀ (s : State) (w : W32), s.env.cfg.iwp = true → s.eng.phase ≠ .reset →
     exec (.iwpOpenSet w) s =
       .next (s.onEng { s.eng with iwp := { s.eng.iwp with opened := s.eng.iwp.opened ||| w } }) ∧
     exec (.iwpOpenClr w) s =
       .next (s.onEng { s.eng with iwp := { s.eng.iwp with opened := s.eng.iwp.opened &&& ~~~w } }))) ∧
  (∀ (s : State) (w : W32),
    let is (off : Nat) (c : Instr) : Prop := exec (.registerWrite off w) s = exec c s
    is 0x0010 (.genNegWrite w) ∧ (wbit w 30 = true → is 0x0108 .qsRetry) ∧ (wbit w 31 = true → is 0x0500 (.secLock w)) ∧
    (s.eng.phase = .reset →
      ∀ off ∈ [0x0100, 0x0120, 0x0240, 0x0244, 0x0248, 0x0410, 0x0704, 0x0708], Idles (.registerWrite off w) s) ∧
    (s.eng.phase ≠ .reset →
      (wbit w 1 = true → wbit w 2 = true → is 0x0100 .drainingStop) ∧
      (wbit w 1 = true → wbit w 2 = false → is 0x0100 .abortiveStop) ∧
      (wbit w 1 = false → wbit w 0 = true → is 0x0100 .run) ∧
      (wbit w 1 = false → wbit w 0 = false → Idles (.registerWrite 0x0100 w) s) ∧
      Reaches (.registerWrite 0x0120 w) s (fun t =>
        Runs ((if wbit w 0 then [.cntClearBlock] else []) ++ (if wbit w 1 then [.cntClearHedgerow] else []) ++
          (if wbit w 2 then [.cntClearDomain] else []) ++ (if wbit w 3 then [.cntClearRemote] else [])) s t) ∧
      (∀ i, i < 3 → is (0x0240 + 4 * i) (.rcFlush i w)) ∧ is 0x0410 (.softRepair w) ∧
      is 0x0704 (.iwpOpenSet w) ∧ is 0x0708 (.iwpOpenClr w) ∧
      (∀ h, h < 12 → h < s.env.cfg.hedgerows →
        (wbit w 1 = true → inService s.env s.eng h = true → is (0x8000 + 0x400 * h) (.driverFence ⟨h, false⟩)) ∧
        (wbit w 1 = false ∨ inService s.env s.eng h = false →
          (wbit w 0 = true → is (0x8000 + 0x400 * h) (.readmit h)) ∧
          (wbit w 0 = false → Idles (.registerWrite (0x8000 + 0x400 * h) w) s)) ∧
        (wbit w 1 = true → wbit w 2 = true → is (0x8004 + 0x400 * h) (.hrDrainingStop h)) ∧
        (wbit w 1 = true → wbit w 2 = false → is (0x8004 + 0x400 * h) (.hrAbortiveStop ⟨h, false⟩)) ∧
        (wbit w 1 = false → wbit w 0 = true → is (0x8004 + 0x400 * h) (.hrStart h)) ∧
        (wbit w 1 = false → wbit w 0 = false → Idles (.registerWrite (0x8004 + 0x400 * h) w) s))))

/-- KZ_CNT_CLEAR: each bit clears the counters R399 lists for it, and no other register of the window
changes. RC_FLUSH empties the route caches of the pleachers whose bits are 1, and nothing else (R105, R400). -/
def Obligations.CountersAndRoutesAreCleared : Prop :=
  (let clears (c : Instr) (p : Nat → Bool) : Prop := ∀ s : State,
     Reaches c s (fun t =>
       (∀ off, off < 65536 → off % 4 = 0 → readReg t off = if p off then 0 else readReg s off) ∧
       SameBytes s t ∧ SameOutside s t ∧ t.eng.jobs = s.eng.jobs ∧ t.eng.pl = s.eng.pl ∧ t.eng.hed = s.eng.hed)
   clears .cntClearBlock blockCounter ∧ clears .cntClearHedgerow hedgerowCounter ∧
   clears .cntClearDomain domainCounter ∧ clears .cntClearRemote remoteCounter) ∧
  (∀ (s : State) (i : Nat) (w : W32), s.eng.phase ≠ .reset → i < 3 →
     Reaches (.rcFlush i w) s (fun t =>
       (∀ g, g < 96 → t.eng.pl.look g =
         if g / 32 = i ∧ wbit w (g % 32) = true ∧ g < 8 * s.env.cfg.hedgerows
         then { s.eng.pl.look g with routes := [] } else s.eng.pl.look g) ∧
       t = s.onEng { s.eng with pl := t.eng.pl }))

/-- SOFT_REPAIR gives a leaf-store row the spare its word names, a bank's row the bank's spare, or a pleacher's number
to the spare where there is one, while the hedgerow is stopped or fenced, and is ignored at other times; words that
name nothing are ignored (R340-R342). A read of the repair log drives its oldest entry and removes it, and 0 of an
empty log (R301, R343). -/
def Obligations.SoftRepairAndItsLog : Prop :=
  (∀ (s : State) (w : W32), s.eng.phase ≠ .reset → s.eng.phase ≠ .failed →
    let h := bits w.toNat 24 4
    let g := 8 * h + bits w.toNat 21 3
    let spare := bits w.toNat 18 3
    let bank := bits w.toNat 13 5
    let row := bits w.toNat 0 10
    let kind := bits w.toNat 28 4
    let open_ := hrIsStopped s.eng h = true ∨ hrIsFenced s.eng h = true
    (open_ → kind = 1 → h < s.env.cfg.hedgerows → row < 768 →
      Reaches (.softRepair w) s (fun t =>
        (let x := s.env.rep.leaf.look g
         t.env.rep.leaf.look g =
           { x with map := (spare, row) :: x.map.filter (fun p => p.1 != spare && p.2 != row) }) ∧
        (∀ k, k ≠ g → t.env.rep.leaf.look k = s.env.rep.leaf.look k) ∧
        t = { s with env := { s.env with rep := { s.env.rep with leaf := t.env.rep.leaf } } })) ∧
    (open_ → kind = 2 → h < s.env.cfg.hedgerows → row < 128 →
      Reaches (.softRepair w) s (fun t =>
        (let x := s.env.rep.hr.look h
         t.env.rep.hr.look h = { x with map := (bank, row) :: x.map.filter (fun p => p.1 != bank) }) ∧
        (∀ k, k ≠ h → t.env.rep.hr.look k = s.env.rep.hr.look k) ∧
        t = { s with env := { s.env with rep := { s.env.rep with hr := t.env.rep.hr } } })) ∧
    (open_ → kind = 3 → h < s.env.cfg.hedgerows → s.env.cfg.large = false →
      Reaches (.softRepair w) s (fun t =>
        t.env.rep.hr.look h =
          { s.env.rep.hr.look h with spare := 2, spareFor := BitVec.ofNat 3 (bits w.toNat 21 3) } ∧
        (∀ k, k ≠ h → t.env.rep.hr.look k = s.env.rep.hr.look k) ∧
        t = { s with env := { s.env with rep := { s.env.rep with hr := t.env.rep.hr } } }.onEng
              (s.eng.onPl g (fun p => { p with routes := [] })))) ∧
    (kind = 0 ∨ 3 < kind ∨ s.env.cfg.hedgerows ≤ h ∨ (kind = 1 ∧ 768 ≤ row) ∨ (kind = 2 ∧ 128 ≤ row) ∨
        (kind = 3 ∧ s.env.cfg.large = true) → Idles (.softRepair w) s) ∧
    (hrIsStopped s.eng h = false → hrIsFenced s.eng h = false → Idles (.softRepair w) s)) ∧
  (∀ s : State, Reaches .repairLogRead s (fun t =>
    t.env.rdata = s.env.rep.log.headD 0 ∧ t.env.rep.log = s.env.rep.log.tail ∧
    t = { s with
      env := { s.env with rep := { s.env.rep with log := t.env.rep.log }, rdata := t.env.rdata } })) ∧
  (∀ (x : Rep) (w : W32),
    (x.log.length < 64 → x.note w = { x with log := x.log ++ [w] }) ∧
    (64 ≤ x.log.length → x.note w = { x with logLost := true }))

/-! ### Period domains -/

/-- ENABLE becoming 1 arms the domain with phase and period 0; becoming 0 it disables the domain, clears its drop
mark and ends its bound jobs, whose close entries are freed; a new SRC or DIV does both (R270-R272). -/
def Obligations.DomainIsArmedAndDisabled : Prop :=
  let armed (s t : State) (d : Nat) : Prop :=
    t.eng.dom.look d = { s.eng.dom.look d with
      st := .armed, k := 0, pnum := 0, phase := 0, mark := none, stalled := false }
  let stored (s t : State) (d : Nat) (w : W32) : Prop :=
    (t.env.regs.pd.look d).cfg = w &&& 0x87FFFFFF#32 ∧ t.pending = s.pending ∧
    (∀ k, k ≠ d → t.env.regs.pd.look k = s.env.regs.pd.look k ∧ t.eng.dom.look k = s.eng.dom.look k) ∧
    t.env = { s.env with regs := { s.env.regs with pd := t.env.regs.pd } }
  let ended (s t : State) (d : Nat) : Prop :=
    ∀ k j, s.eng.jobAt k = some j → j.st ≠ .ended → j.bound = true → j.desc.domain = d →
      StatusAt t k (statusAfter s s.eng.tie j .droppedPeriod)
  let freed (t : State) (d : Nat) : Prop :=
    ∀ j ∈ t.eng.jobs, j.bound = true → j.desc.domain = d → ∀ w, j.win = some w → w.closed = true
  ∀ (s : State) (d : Nat) (w : W32), s.env.cfg.phase = true → d < 16 → s.eng.phase ≠ .reset →
    (wbit (s.env.regs.pd.look d).cfg 31 = false → wbit w 31 = true →
      Reaches (.pdEnable d w) s (fun t =>
        stored s t d w ∧ armed s t d ∧ t.eng = { s.eng with dom := t.eng.dom })) ∧
    (wbit (s.env.regs.pd.look d).cfg 31 = true → wbit w 31 = false →
      Reaches (.pdDisable d w) s (fun t =>
        stored s t d w ∧ (t.eng.dom.look d).st = .disabled ∧ (t.eng.dom.look d).mark = none ∧ ended s t d ∧
        freed t d)) ∧
    (wbit (s.env.regs.pd.look d).cfg 31 = true → wbit w 31 = true →
      bits (s.env.regs.pd.look d).cfg.toNat 16 11 ≠ bits (w &&& 0x87FFFFFF#32).toNat 16 11 →
      Reaches (.pdRebind d w) s (fun t => stored s t d w ∧ armed s t d ∧ ended s t d ∧ freed t d))

/-! ### The Hedger -/

/-- A poll tick of a running block begins with one read of each of the SUM_LINES summary lines, and with nothing else;
none begins while a stop or a tick is in progress or the block does not run (R213, R218, R362). The last summary line
of a tick makes it read the doorbell of each served ring of the line whose bit is set or that has RELOAD set, and of
each ring with RELOAD set above the lines; a failed read counts as zeros, adds 1 to CFP_RD_ERR and raises kz_err
(R218, R220, R223). Where it is the tick's last read and no ring has anything to fetch, the tick ends and forms no
round (R218, R246). -/
def Obligations.TicksReadSummaryAndDoorbells : Prop :=
  (∀ s : State,
     (s.eng.phase = .running → s.eng.stop = none → s.eng.hed.tick = none →
       Reaches .pollTick s (fun t =>
         t.eng.hed.tick = some ⟨sumLines s.env, burstOf s.env, 0, upTo (sumLines s.env), [], [], [], false, [], []⟩ ∧
         (∀ l, l < sumLines s.env → Asked t (.summary l) ((dbBase s.env + 64 * l) % 2 ^ 52) 64 false) ∧
         t.eng.hed.rings = s.eng.hed.rings ∧ t.eng.hed.queue = s.eng.hed.queue ∧
         t.eng.hed.order = s.eng.hed.order ∧ t.eng.hed.ends = s.eng.hed.ends ∧ OnlyHed s t)) ∧
     (s.eng.phase ≠ .running ∨ s.eng.stop ≠ none ∨ s.eng.hed.tick ≠ none → Idles .pollTick s)) ∧
  (∀ (s : State) (tag : Nat) (x : CfpX) (line : BitVec 512) (psn : Bool) (code : BitVec 2) (tk : Tick) (l : Nat),
     Reading s tag x → x.who = .summary l → s.eng.hed.tick = some tk → tk.lines = [l] → tk.got = [] →
     tk.nextLine = l → tk.nLines = l + 1 →
     let seen : BitVec 512 := if psn = false ∧ code = 0 then line else 0
     let asks (n : Nat) : Prop :=
       (n / 512 = l ∧ n < s.env.cfg.rings ∧ (seen.toNat.testBit (n % 512) = true ∨ (s.eng.hed.ring n).reload = true)) ∨
       (l < n / 512 ∧ ∃ r ∈ s.eng.hed.rings, r.num = n ∧ r.reload = true)
     (tk.doorbells ≠ [] ∨ tk.tables ≠ [] ∨ (∃ n, asks n) →
     Reaches (.summaryLineReturn tag line psn code) s (fun t =>
       (∃ ns, t.eng.hed.tick = some { tk with lines := [], nextLine := l + 1, doorbells := tk.doorbells ++ ns } ∧
         (∀ n, n ∈ ns ↔ asks n) ∧
         (∀ n ∈ ns, Asked t (.doorbell n) ((dbBase s.env + 65536 + 64 * n) % 2 ^ 52) 64 false)) ∧
       t.eng.cnt.cfpRdErr =
         (if psn = false ∧ code = 0 then s.eng.cnt.cfpRdErr else satInc s.eng.cnt.cfpRdErr 1) ∧
       (psn = true ∨ code ≠ 0 → wbit t.eng.errStatus 0 = true) ∧
       t.eng.jobs = s.eng.jobs ∧ (NoDrops s → t.eng.mem = s.eng.mem) ∧ SameOutside s t)) ∧
     (TickReads { tk with lines := [] } → (∀ n, ¬asks n) → (∀ r ∈ s.eng.hed.rings, r.pend = false) →
       Reaches (.summaryLineReturn tag line psn code) s (fun t =>
         t.eng.hed.tick = none ∧ t.eng.hed.st = s.eng.hed.st ∧ t.eng.hed.rings = s.eng.hed.rings ∧
         t.eng.jobs = s.eng.jobs ∧ (NoDrops s → t.eng.mem = s.eng.mem) ∧ SameOutside s t)))

/-- A doorbell line shows that a load is due when the ring is not loaded, shows another EPOCH or waits in RELOAD: with
C = F its table entry is read, else RELOAD is set; otherwise PROD is noted and PEND set where it differs from F (R217,
R219, R220). A table entry loads its ring: the fields of R215, both counts at 0, the EPOCH read, RELOAD cleared, the
marking of R372 fixed, and the doorbell line taken as newly read; a failed read of either kind changes no ring and is
counted, and a ring due a load is not served until one is made (R215-R217, R219, R223, R372; log 78). While another
line or entry is still to come the tick fetches nothing (the model's reading: log 17). With the tick's last read in
hand it fetches: up to BURST descriptors of a ring with PEND, one read each, SEQ counting from F (R218, R219). -/
def Obligations.DoorbellsLoadRings : Prop :=
  (∀ (s : State) (tag : Nat) (x : CfpX) (line : BitVec 512) (tk : Tick) (n : Nat),
     Reading s tag x → x.who = .doorbell n → s.eng.hed.tick = some tk →
     let r := s.eng.hed.ring n
     let prod := BitVec.ofNat 32 (bits line.toNat 0 32)
     let epoch := BitVec.ofNat 8 (bits line.toNat 32 8)
     let due := r.loaded = false ∨ r.epoch ≠ epoch ∨ r.reload = true
     let left : Tick := { tk with doorbells := tk.doorbells.filter (fun x => x != n) }
     (due → r.c = r.f →
       Reaches (.doorbellLineReturn tag line false 0) s (fun t =>
         t.eng.hed.ring n = { r with due := true } ∧
         t.eng.hed.tick = some { left with tables := tk.tables ++ [n] } ∧
         Asked t (.table n prod epoch) ((ringTbl s.env + 16 * n) % 2 ^ 52) 16 (belowSec s.env n) ∧
         (∀ m, m ≠ n → t.eng.hed.ring m = s.eng.hed.ring m) ∧
         t.eng.jobs = s.eng.jobs ∧ (NoDrops s → t.eng.mem = s.eng.mem) ∧ t.eng.cnt = s.eng.cnt ∧ SameOutside s t)) ∧
     (TickWaits left → ¬(due ∧ r.c = r.f) →
       Reaches (.doorbellLineReturn tag line false 0) s (fun t =>
         (due → t.eng.hed.ring n = { r with due := true, reload := true }) ∧
         (¬due → t.eng.hed.ring n =
           { r with due := false, prodSeen := prod, pend := r.pend || decide (prod ≠ r.f) }) ∧
         t.eng.hed.tick = some left ∧
         (∀ m, m ≠ n → t.eng.hed.ring m = s.eng.hed.ring m) ∧
         t.eng.jobs = s.eng.jobs ∧ (NoDrops s → t.eng.mem = s.eng.mem) ∧ t.eng.cnt = s.eng.cnt ∧ SameOutside s t)) ∧
     (let b := min tk.burst (prod - r.f).toNat
      TickReads left → RingsSorted s → OnlyPend s n → ¬due → r.ctx.enable = true → 0 < b → RoomFor s n b →
       Reaches (.doorbellLineReturn tag line false 0) s (fun t =>
         Fetching t r b ∧ (t.eng.hed.ring n).f = r.f + BitVec.ofNat 32 b ∧
         (t.eng.hed.ring n).pend = decide (r.f + BitVec.ofNat 32 b ≠ prod) ∧
         (∃ u, t.eng.hed.tick = some u ∧ u.fetching = true ∧ u.plan = [] ∧ u.fetched.length = b) ∧
         (NoDrops s → t.eng.hed.queue.length = s.eng.hed.queue.length + b))) ∧
     (TickReads left → (∀ m ∈ s.eng.hed.rings, m.pend = false) →
       (due ∧ r.c ≠ r.f) ∨ (¬due ∧ prod = r.f) →
       Reaches (.doorbellLineReturn tag line false 0) s (fun t =>
         t.eng.hed.tick = none ∧ t.eng.hed.st = s.eng.hed.st ∧ t.eng.jobs = s.eng.jobs)) ∧
     (∀ (psn : Bool) (code : BitVec 2), psn = true ∨ code ≠ 0 → TickWaits left →
       Reaches (.doorbellLineReturn tag line psn code) s (fun t =>
         t.eng.hed.rings = s.eng.hed.rings ∧ t.eng.cnt.cfpRdErr = satInc s.eng.cnt.cfpRdErr 1 ∧
         t.eng.hed.tick = some left ∧ wbit t.eng.errStatus 0 = true ∧ t.eng.jobs = s.eng.jobs ∧
         (NoDrops s → t.eng.mem = s.eng.mem) ∧ SameOutside s t))) ∧
  (∀ (s : State) (tag : Nat) (x : CfpX) (entry : BitVec 128) (tk : Tick) (n : Nat) (prod : W32) (epoch : BitVec 8),
     Reading s tag x → x.who = .table n prod epoch → s.eng.hed.tick = some tk →
     let b (lo len : Nat) : Nat := bits entry.toNat lo len
     let left : Tick := { tk with tables := tk.tables.filter (fun x => x != n) }
     let marked := decide (b 57 1 = 1) && decide (n < min 65536 (bits s.env.sec.cfg.toNat 0 17)) &&
       s.env.cfg.privet && !s.env.ao.qs
     let loaded (r : Ring) : Prop :=
       r.loaded = true ∧ r.c = 0 ∧ r.epoch = epoch ∧ r.reload = false ∧ r.due = false ∧ r.prodSeen = prod ∧
       r.ctx = ⟨b 60 4, b 58 2, decide (b 57 1 = 1), b 8 44 * 256, decide (b 127 1 = 1), decide (b 126 1 = 1),
         decide (b 125 1 = 1), b 69 47 * 32⟩ ∧ r.secure = marked
     (TickWaits left →
       Reaches (.ringTableReturn tag entry false 0) s (fun t =>
         loaded (t.eng.hed.ring n) ∧ (t.eng.hed.ring n).f = 0 ∧ (t.eng.hed.ring n).pend = decide (prod ≠ 0) ∧
         t.eng.hed.tick = some left ∧
         (∀ m, m ≠ n → t.eng.hed.ring m = s.eng.hed.ring m) ∧
         t.eng.jobs = s.eng.jobs ∧ (NoDrops s → t.eng.mem = s.eng.mem) ∧ t.eng.cnt = s.eng.cnt ∧ SameOutside s t)) ∧
     (let k := min tk.burst prod.toNat
      TickReads left → RingsSorted s → OnlyPend s n → b 127 1 = 1 → 0 < k → RoomFor s n k →
       Reaches (.ringTableReturn tag entry false 0) s (fun t =>
         loaded (t.eng.hed.ring n) ∧ (t.eng.hed.ring n).f = BitVec.ofNat 32 k ∧
         Fetching t { t.eng.hed.ring n with f := 0 } k ∧ t.eng.hed.tick.isSome = true)) ∧
     (∀ (psn : Bool) (code : BitVec 2), psn = true ∨ code ≠ 0 → TickWaits left →
       Reaches (.ringTableReturn tag entry psn code) s (fun t =>
         t.eng.hed.rings = s.eng.hed.rings ∧ t.eng.cnt.cfpRdErr = satInc s.eng.cnt.cfpRdErr 1 ∧
         t.eng.hed.tick = some left ∧
         wbit t.eng.errStatus 0 = true ∧ t.eng.jobs = s.eng.jobs ∧ (NoDrops s → t.eng.mem = s.eng.mem) ∧
         SameOutside s t)) ∧
     (∀ (psn : Bool) (code : BitVec 2), psn = true ∨ code ≠ 0 → TickReads left →
       (∀ m ∈ s.eng.hed.rings, m.pend = false ∨ m.due = true) →
       Reaches (.ringTableReturn tag entry psn code) s (fun t =>
         t.eng.hed.rings = s.eng.hed.rings ∧ t.eng.hed.tick = none ∧ t.eng.hed.st = s.eng.hed.st ∧
         t.eng.cnt.cfpRdErr = satInc s.eng.cnt.cfpRdErr 1 ∧ wbit t.eng.errStatus 0 = true ∧
         t.eng.jobs = s.eng.jobs ∧ SameOutside s t)))

/-- A tick that waits for queue entries goes on once one is free: the next descriptor of the ring in front of its
plan is read, from slot F mod N on, with SEQ = F; with no entry free it waits (R219, R243). A descriptor arrives in the
queue entry its read was made for; a failed read gives that entry the status FABRIC_ERROR, adds 1 to CFP_RD_ERR and
raises kz_err. The tick goes on waiting for its other descriptors, or for room; with the last of them it ends: its jobs
are handed over, and, where none of them is phase-bound or held, round k takes the k-th job of each ring, rings in
ascending number beginning above ST and wrapping, and ST becomes the first ring of the first round (R218, R219, R223,
R243, R246). -/
def Obligations.DescriptorsAreFetched : Prop :=
  (∀ (s : State) (tk : Tick) (n : Nat) (rest : List Nat),
     s.eng.hed.tick = some tk → TickFetches tk → tk.plan = n :: rest →
     (s.eng.hed.queue.length < 512 → ringEntries s.eng n < 64 →
       (∀ i ∈ s.eng.hed.queue, i.ring = n → i.seq ≠ (s.eng.hed.ring n).f) →
       Reaches .descriptorFetchResume s (fun t =>
         let r := s.eng.hed.ring n
         Asked t (.descr n r.f) ((r.ctx.descBase + 256 * (r.f.toNat % 2 ^ (r.ctx.sizeLog2 + 1))) % 2 ^ 52) 256 r.secure ∧
         (∃ i ∈ t.eng.hed.queue, i.ring = n ∧ i.seq = r.f ∧ i.arrived = false ∧ i.handed = false) ∧
         t.eng.hed.tick.isSome = true ∧ t.eng.jobs = s.eng.jobs ∧ (NoDrops s → t.eng.mem = s.eng.mem) ∧
         SameOutside s t)) ∧
     (512 ≤ s.eng.hed.queue.length → Idles .descriptorFetchResume s)) ∧
  (∀ (s : State) (tag : Nat) (x : CfpX) (slot : BitVec 2048) (psn : Bool) (code : BitVec 2) (tk : Tick) (n : Nat)
     (q : W32) (i : QJob),
     Reading s tag x → x.who = .descr n q → s.eng.hed.tick = some tk → TickFetches tk →
     i ∈ s.eng.hed.queue → i.ring = n → i.seq = q → i.handed = false →
     (∀ j ∈ s.eng.hed.queue, j.ring = n → j.seq = q → j = i) →
     ((tk.plan = [] ∧ ∃ j ∈ s.eng.hed.queue, QJob.id j ∈ tk.fetched ∧ j.arrived = false ∧ QJob.id j ≠ (n, q)) ∨
        (∃ m rest, tk.plan = m :: rest ∧ 512 ≤ s.eng.hed.queue.length ∧ ringEntries s.eng m < 64) →
      Reaches (.descriptorReturn tag slot psn code) s (fun t =>
       (psn = false ∧ code = 0 →
         { i with desc := parseDesc slot.toNat, arrived := true, bad := none } ∈ t.eng.hed.queue ∧
         t.eng.cnt = s.eng.cnt ∧ t.eng.errStatus = s.eng.errStatus) ∧
       (psn = true ∨ code ≠ 0 →
         (∃ j ∈ t.eng.hed.queue, j.ring = n ∧ j.seq = q ∧ j.arrived = true ∧ j.bad = some .fabricError) ∧
         t.eng.cnt.cfpRdErr = satInc s.eng.cnt.cfpRdErr 1 ∧ wbit t.eng.errStatus 0 = true) ∧
       t.eng.hed.tick = some tk ∧ t.eng.jobs = s.eng.jobs ∧ (NoDrops s → t.eng.mem = s.eng.mem) ∧
       SameOutside s t))) ∧
  (∀ (s : State) (tag : Nat) (x : CfpX) (slot : BitVec 2048) (psn : Bool) (code : BitVec 2) (tk : Tick) (n : Nat)
     (q : W32) (ns : List Nat),
     Reading s tag x → x.who = .descr n q → s.eng.hed.tick = some tk → TickFetches tk → tk.plan = [] →
     (s.eng.hed.queue.map QJob.id).Nodup → (n, q) ∈ tk.fetched →
     (∀ k ∈ tk.fetched, ∃ j ∈ s.eng.hed.queue, QJob.id j = k ∧ j.ordered = false) →
     (∀ j ∈ s.eng.hed.queue, QJob.id j = (n, q) ∨ (j.arrived = true ∧ (j.ordered = false → QJob.id j ∈ tk.fetched))) →
     (∀ j ∈ s.eng.hed.queue, QJob.id j ≠ (n, q) →
       j.win = none ∧ j.desc.phaseEn = false ∧ j.desc.ringFence = false) →
     (psn = false → code = 0 → bitOn slot.toNat 4 = false ∧ bitOn slot.toNat 10 = false) →
     (∀ j ∈ s.eng.hed.queue, j.win = none) → s.eng.stop = none →
     ns.Pairwise (· < ·) → (∀ m, m ∈ ns ↔ ∃ k ∈ tk.fetched, k.1 = m) →
     Reaches (.descriptorReturn tag slot psn code) s (fun t =>
       let turn := ns.filter (fun m => decide (s.eng.hed.st < m)) ++ ns.filter (fun m => decide (m ≤ s.eng.hed.st))
       let mine (m : Nat) : List (Nat × W32) :=
         (s.eng.hed.queue.filter (fun j => j.ring == m && !j.ordered)).map QJob.id
       t.eng.hed.tick = none ∧
       (∀ j ∈ t.eng.hed.queue, QJob.id j ∈ tk.fetched → j.handed = true ∧ j.ordered = true) ∧
       t.eng.hed.queue.length = s.eng.hed.queue.length ∧
       t.eng.hed.order = s.eng.hed.order ++
         (List.range tk.fetched.length).flatMap (fun k => turn.filterMap (fun m => (mine m)[k]?)) ∧
       turn.head? = some t.eng.hed.st ∧
       t.eng.jobs = s.eng.jobs ∧ t.eng.mem = s.eng.mem ∧ SameOutside s t))

/-- A head held by its RING_FENCE alone, an unbound one or a phase-bound one whose window is open, enters the admission
order at the end once C of the ring has reached its SEQ, followed by jobs of its ring, and not before (R227, R244, R245;
that a phase-bound one enters as a release too: log 18). The job behind it may meet its domain's drop mark as it becomes
the head, and then ends at once (R275, R280). -/
def Obligations.RingFenceReleasesTheHead : Prop :=
  ∀ (s : State) (n : Nat) (q : QJob), s.eng.hed.head n = some q → q.handed = true → q.ordered = false →
    q.bad = none → q.desc.ringFence = true →
    let alone := (q.win = none ∧ q.desc.phaseEn = false) ∨ ∃ w, q.win = some w ∧ w.opened = true
    (alone → (s.eng.hed.ring n).c = q.seq →
      Reaches (.ringFenceRelease n) s (fun t =>
        (∃ i ∈ t.eng.hed.queue, i.ring = n ∧ i.seq = q.seq ∧ i.ordered = true) ∧ (n, q.seq) ∈ t.eng.hed.order ∧
        t.eng.hed.rings = s.eng.hed.rings ∧ t.eng.hed.tick = s.eng.hed.tick ∧ OnlyHeads s t ∧
        (NoDrops s →
          (∃ ks, t.eng.hed.order = s.eng.hed.order ++ (n, q.seq) :: ks ∧ ∀ k ∈ ks, k.1 = n) ∧
          t.eng.hed.ends = s.eng.hed.ends ∧ t.eng.hed.queue.length = s.eng.hed.queue.length ∧ OnlyHed s t))) ∧
    (alone → (s.eng.hed.ring n).c ≠ q.seq →
      Reaches (.ringFenceRelease n) s (fun t => t.eng.hed.order = s.eng.hed.order ∧ OnlyHed s t)) ∧
    (∀ w, q.win = some w → w.opened = false → Idles (.ringFenceRelease n) s)

/-- The first job of the admission order enters the lowest free slot of the pleacher chosen for it (log 16), with
the next ADMIT_SEQ, its boxes as claims, and the earlier jobs whose claims it must wait for; it is READY when there
are none. A job with a failed descriptor read or with no unit in service under its pin passes on to its record; a
job without a free slot waits (R226, R247-R250, R253, R255). With PB_PREEMPT a phase-bound job that becomes READY with
its window open makes the unbound job that runs on its pleacher yield (R258). Two claims overlap when they name one
memory and their ranges have a byte in common, a later job waits for an earlier one when boxes of theirs overlap of
which one is a write box, and a job's claims are the boxes of its source, of its index and of its destination (R49,
R250, R252). -/
def Obligations.AdmissionTakesTheFirstJob : Prop :=
  ((∀ a b : Claim, a.meets b = true ↔ a.inst = b.inst ∧ a.lo < b.hi ∧ b.lo < a.hi) ∧
   (∀ a b : Claim, a.lo < a.hi → b.lo < b.hi →
     (a.meets b = true ↔ a.inst = b.inst ∧ ∃ x, (a.lo ≤ x ∧ x < a.hi) ∧ (b.lo ≤ x ∧ x < b.hi))) ∧
   (∀ new old : List Claim,
     mustWait new old = true ↔ ∃ a ∈ new, ∃ b ∈ old, (a.write = true ∨ b.write = true) ∧ a.meets b = true) ∧
   (∀ (d : Desc) (g : Nat) (c : Claim),
     c ∈ claimsOf d g ↔
       (∃ b ∈ d.src.boxes, c = ⟨instOf g d.src.space, b.1, b.2, false⟩) ∨
       (d.prog = false ∧ ∃ b, d.idxBox = some b ∧ c = ⟨instOf g d.idxSpace, b.1, b.2, false⟩) ∨
       (∃ b ∈ d.dst.boxes, c = ⟨instOf g d.dst.space, b.1, b.2, true⟩))) ∧
  (∀ (s : State) (k : Nat × W32) (rest : List (Nat × W32)) (q : QJob) (g slot : Nat) (w : Win) (j : Job),
    s.eng.hed.order = k :: rest →
    s.eng.hed.queue.find? (fun q => q.ring == k.1 && q.seq == k.2) = some q →
    q.bad = none → pinServed s.env s.eng q.desc = true → choosePleacher s.env s.eng q = some g →
    slotFor s.eng g = some slot → wbit s.env.regs.sliceCfg 20 = true → q.win = some w → w.opened = true →
    (∀ o ∈ s.eng.jobs, mustWait (claimsOf q.desc g) o.claims = false) →
    (s.eng.pl.look g).phase = .running → (s.eng.pl.look g).wait ≠ .yielding → (s.eng.pl.look g).flights = [] →
    s.eng.curJob g = some j → j.st = .running → j.status = none → j.bound = false → j.secure = false → j.xq = [] →
    dataOut s.eng j = false → (s.eng.jobs.map Job.key).Nodup →
    Reaches .admissionCompare s (fun t =>
      (∃ o, t.eng.jobAt (g, slot) = some o ∧ o.seq = q.seq ∧ o.st = .ready ∧ o.bound = true) ∧
      (∃ o, t.eng.jobAt j.key = some o ∧ o.seq = j.seq ∧ o.st = .suspended ∧ o.saveAt = .host) ∧
      t.eng.hed.admitNext = s.eng.hed.admitNext + 1 ∧ SameOutside s t)) ∧
  ∀ (s : State) (k : Nat × W32) (rest : List (Nat × W32)) (q : QJob), s.eng.hed.order = k :: rest →
    s.eng.hed.queue.find? (fun q => q.ring == k.1 && q.seq == k.2) = some q →
    (∀ g slot, q.bad = none → pinServed s.env s.eng q.desc = true → choosePleacher s.env s.eng q = some g →
      slotFor s.eng g = some slot → wbit s.env.regs.sliceCfg 20 = false ∨ q.win = none →
      Reaches .admissionCompare s (fun t =>
        (∃ j, t.eng.jobs = s.eng.jobs ++ [j] ∧ j.ring = q.ring ∧ j.seq = q.seq ∧ j.desc = q.desc ∧ j.g = g ∧
          j.slot = slot ∧ j.admitSeq = s.eng.hed.admitNext ∧ j.claims = claimsOf q.desc g ∧ j.win = q.win ∧
          j.wait = (s.eng.jobs.filter (fun o => mustWait (claimsOf q.desc g) o.claims)).map Job.key ∧
          (j.st = if j.wait = [] then .ready else .waiting) ∧ j.status = none ∧ j.saved = none ∧
          j.secure = (s.eng.hed.ring q.ring).secure) ∧
        t.eng.hed.admitNext = s.eng.hed.admitNext + 1 ∧
        (NoDrops s → t.eng.mem = s.eng.mem) ∧ t.eng.pl = s.eng.pl ∧ t.eng.dom = s.eng.dom ∧ SameOutside s t)) ∧
    (∀ st, q.bad = some st →
      Reaches .admissionCompare s (fun t =>
        (∃ r ∈ t.eng.hed.ends, r.ring = q.ring ∧ r.seq = q.seq ∧ r.key = none ∧ r.status = st ∧ r.tag = 0) ∧
        t.eng.hed.admitNext = s.eng.hed.admitNext ∧ OnlyHeads s t)) ∧
    (q.bad = none → pinServed s.env s.eng q.desc = false →
      Reaches .admissionCompare s (fun t =>
        (∃ r ∈ t.eng.hed.ends, r.ring = q.ring ∧ r.seq = q.seq ∧ r.key = none ∧ r.status = .fencedUnit ∧
          r.tag = q.desc.tag) ∧
        t.eng.hed.admitNext = s.eng.hed.admitNext ∧ OnlyHeads s t)) ∧
    (q.bad = none → pinServed s.env s.eng q.desc = true → choosePleacher s.env s.eng q = none →
      Idles .admissionCompare s)

/-- The choice of R249: the pleacher can take the job; it is the one on which the most recently admitted job of the same
ring that still holds its slot stands, where that one can take the job, and otherwise no pleacher that can take it has
more free slots, nor as many and a lower number. None is chosen only where none can take the job. -/
def Obligations.ChoiceOfPleacher : Prop :=
  ∀ (v : Env) (e : Eng) (q : QJob),
    (∀ older j newer, e.jobs = older ++ j :: newer → j.ring = q.ring → (∀ o ∈ newer, o.ring ≠ q.ring) →
      canTake v e q j.g = true → choosePleacher v e q = some j.g) ∧
    (∀ g, choosePleacher v e q = some g →
      canTake v e q g = true ∧
      ((∀ older j newer, e.jobs = older ++ j :: newer → j.ring = q.ring → (∀ o ∈ newer, o.ring ≠ q.ring) →
          canTake v e q j.g = false) →
        ∀ k, k < 8 * v.cfg.hedgerows → canTake v e q k = true →
          freeSlots e k < freeSlots e g ∨ (freeSlots e k = freeSlots e g ∧ g ≤ k))) ∧
    (choosePleacher v e q = none → ∀ k, k < 8 * v.cfg.hedgerows → canTake v e q k = false)

/-- The record in front, of a job whose turn has come: its slot and its claims are released, C of its ring advances,
and one 32-byte write with the record goes to completion slot C mod N; a job that waited for its entry alone is READY,
and a head of its ring that waited with RING_FENCE for this C enters the admission order (R227, R234, R239, R240,
R245, R253). A mirror bit inside the semaphore window is set first, no other bit of any memory changing, and the
record waits while the bank sleeps; a mirror bit outside it is ignored (R198, R240; how often the write is refused:
log 14). A job that was never admitted has a record and no slot (R235, R248). The 32 bytes of a record carry the
fields of R235: PHASE, PLEACHER, FLAGS and STATUS, SEQ, TAG, RING and FAULT_IDX, ADMIT_SEQ, and DOMAIN with END_PHASE;
CYCLES is a free value (log 4). -/
def Obligations.RecordsAreIssued : Prop :=
  let turn (s : State) (r : EndRef) : Prop :=
    (s.eng.hed.ring r.ring).ctx.ordered = false ∨ (s.eng.hed.ring r.ring).c = r.seq
  let written (s t : State) (r : EndRef) (j : Option Job) : Prop :=
    let ring := s.eng.hed.ring r.ring
    (t.eng.hed.ring r.ring).c = ring.c + 1 ∧
    (∀ n, n ≠ r.ring → t.eng.hed.ring n = s.eng.hed.ring n) ∧
    ∃ x ∈ t.eng.hed.cfpWant ++ t.eng.hed.cfpOut, ∃ cycles,
      x.who = .record r.ring ring.ctx.evt ∧
      x.addr = (ring.ctx.cplBase + 32 * (ring.c.toNat % 2 ^ (ring.ctx.sizeLog2 + 1))) % 2 ^ 52 ∧ x.len = 32 ∧
      x.sec = ring.secure ∧ x.timedOut = false ∧ x.data = recordBytes s.eng r j cycles
  (∀ (s : State) (r : EndRef) (rest : List EndRef) (k : Nat × Nat) (j : Job), s.eng.hed.ends = r :: rest →
     r.key = some k → s.eng.jobAt k = some j → j.desc.mirrorEn = false → turn s r →
     ∀ collide, Reaches (.completionRecord collide) s (fun t =>
       let ring := s.eng.hed.ring r.ring
       t.eng.jobAt k = none ∧ (∀ o ∈ t.eng.jobs, k ∉ o.wait) ∧ written s t r (some j) ∧
       (j.status = some .droppedLate → j.desc.domain < 16 →
         (t.eng.dom.look j.desc.domain).late = satInc (s.eng.dom.look j.desc.domain).late 1) ∧
       (j.status = some .droppedPeriod → j.desc.domain < 16 →
         (t.eng.dom.look j.desc.domain).discard = satInc (s.eng.dom.look j.desc.domain).discard 1) ∧
       (wbit s.env.regs.sliceCfg 20 = false →
         t.eng.pl = s.eng.pl ∧ (NoDrops s → t.eng.mem = s.eng.mem) ∧
         ∀ o ∈ s.eng.jobs, o.key ≠ k → o.st = .waiting → o.wait = [k] →
           ∃ u ∈ t.eng.jobs, u.key = o.key ∧ u.seq = o.seq ∧ u.st = .ready ∧ u.wait = []) ∧
       (∀ q, s.eng.hed.head r.ring = some q → q.handed = true → q.bad = none → q.win = none → q.desc.phaseEn = false →
         q.desc.ringFence = true → q.seq = ring.c + 1 → s.eng.stop = none →
         (∀ i ∈ s.eng.hed.queue, i.ring = r.ring → i.seq = q.seq → i = q) →
         (r.ring, q.seq) ∈ t.eng.hed.order ∧
         ∃ i ∈ t.eng.hed.queue, i.ring = r.ring ∧ i.seq = q.seq ∧ i.ordered = true) ∧
       SameOutside s t)) ∧
  (∀ (s : State) (r : EndRef) (rest : List EndRef) (k : Nat × Nat) (j : Job) (collide : Bool),
     s.eng.hed.ends = r :: rest → r.key = some k → s.eng.jobAt k = some j → j.key = k → j.g < 96 →
     j.desc.mirrorEn = true → turn s r →
     let h := j.g / 8
     let bit := j.desc.mirrorBit
     (inSemWin s.env h bit = false →
       Reaches (.completionRecord collide) s (fun t =>
         t.eng.jobAt k = none ∧ written s t r (some j) ∧
         (wbit s.env.regs.sliceCfg 20 = false → NoDrops s → t.eng.mem = s.eng.mem) ∧ SameOutside s t)) ∧
     (inSemWin s.env h bit = true → BankServes s h → MemInv s →
       Reaches (.completionRecord collide) s (fun t =>
         t.eng.jobAt k = none ∧ written s t r (some j) ∧
         (wbit s.env.regs.sliceCfg 20 = false → NoDrops s →
           (∀ i a, t.eng.mem.byte i a =
             if i = .bank h ∧ a % 2 ^ 20 = bit / 8
             then s.eng.mem.byte i a ||| BitVec.ofNat 8 (2 ^ (bit % 8)) else s.eng.mem.byte i a) ∧
           (t.eng.hr.look h).cnt =
             (let cnt := (s.eng.hr.look h).cnt
              if collide then { cnt with hbCollide := satInc cnt.hbCollide 1 } else cnt)) ∧
         SameOutside s t)) ∧
     (inSemWin s.env h bit = true → s.env.isOff h 3 = false → (s.eng.hr.look h).hbInit = false →
       (s.eng.hr.look h).hbRet = .retained → rest = [] →
       exec (.completionRecord collide) s =
         .next (s.onEng (s.eng.onHr h (fun r => { r with hbRet := .waking }))))) ∧
  (∀ (s : State) (r : EndRef) (rest : List EndRef) (collide : Bool), s.eng.hed.ends = r :: rest → r.key = none →
     turn s r →
     Reaches (.completionRecord collide) s (fun t =>
       written s t r none ∧ t.eng.jobs = s.eng.jobs ∧ t.eng.pl = s.eng.pl ∧ (NoDrops s → t.eng.mem = s.eng.mem) ∧
       (r.status = .droppedLate → r.domain < 16 →
         (t.eng.dom.look r.domain).late = satInc (s.eng.dom.look r.domain).late 1) ∧
       (r.status = .droppedPeriod → r.domain < 16 →
         (t.eng.dom.look r.domain).discard = satInc (s.eng.dom.look r.domain).discard 1) ∧
       SameOutside s t)) ∧
  (∀ (e : Eng) (r : EndRef) (j : Job) (cycles : W32), j.g < 96 → j.desc.domain < 16 →
     let d := recordBytes e r (some j) cycles
     let w (o n : Nat) : Nat := leNat ((d.drop o).take n)
     let ring := e.hed.ring r.ring
     d.length = 32 ∧ bits (w 0 4) 0 8 = j.code ∧ bits (w 0 4) 8 8 = j.flags ∧ bits (w 0 4) 16 7 = j.g ∧
     bits (w 0 4) 31 1 = 1 - bits ring.c.toNat (ring.ctx.sizeLog2 + 1) 1 ∧
     w 4 4 = r.seq.toNat ∧ w 8 8 = r.tag.toNat ∧ bits (w 16 4) 0 16 = r.ring % 65536 ∧
     bits (w 16 4) 16 16 = j.faultIdx.toNat ∧ w 20 4 = j.admitSeq.toNat ∧ w 24 4 = cycles.toNat ∧
     bits (w 28 4) 0 24 = r.phase.toNat ∧ bits (w 28 4) 24 4 = (if j.bound then j.desc.domain else 0)) ∧
  (∀ (e : Eng) (r : EndRef) (cycles : W32), r.domain < 16 →
     let d := recordBytes e r none cycles
     let w (o n : Nat) : Nat := leNat ((d.drop o).take n)
     let ring := e.hed.ring r.ring
     d.length = 32 ∧ bits (w 0 4) 0 8 = r.status.code ∧ bits (w 0 4) 8 8 = 0 ∧ bits (w 0 4) 16 7 = 0x7F ∧
     bits (w 0 4) 31 1 = 1 - bits ring.c.toNat (ring.ctx.sizeLog2 + 1) 1 ∧
     w 4 4 = r.seq.toNat ∧ w 8 8 = r.tag.toNat ∧ w 16 4 = r.ring % 65536 ∧ w 20 4 = 0xFFFFFFFF ∧ w 24 4 = 0 ∧
     bits (w 28 4) 0 24 = r.phase.toNat ∧ bits (w 28 4) 24 4 = r.domain)

/-! ### Slots of a pleacher -/

/-- The selection of R257: of the READY slots that may be selected, one whose window is open goes first, then the one
that has been READY longest; an idle pleacher that no slice holds takes it, and nothing else changes for a job that
has not started. The slot that was chosen as the last job began to yield is the one selected (R259). A job whose
status has arisen is not selected, and a staged job not while another staged job of its hedgerow is selected or has
begun, until that one has ended otherwise than by its END (R182, R255, R257, R328, R346). -/
def Obligations.SelectionTakesTheFirst : Prop :=
  (∀ (l : List Job) (j : Job), firstOf l = some j →
    j ∈ l ∧ ∀ k ∈ l, (k.windowOpen = true → j.windowOpen = true) ∧
      (k.windowOpen = j.windowOpen → j.stamp ≤ k.stamp)) ∧
  (∀ l : List Job, firstOf l = none → l = []) ∧
  (∀ (e : Eng) (g : Nat) (j : Job), j ∈ eligible e g →
    j ∈ e.jobs ∧ j.g = g ∧ j.st = .ready ∧ j.status = none ∧
    (j.staged = true → j.begun = false → ∀ k ∈ e.jobs, k.g / 8 = g / 8 → k.key ≠ j.key → k.staged = true →
      (k.begun = true ∨ ((e.pl.look k.g).phase = .selected ∧ (e.pl.look k.g).cur = k.slot)) →
      k.st = .ended ∧ k.status ≠ none)) ∧
  (∀ (s : State) (g : Nat) (j : Job), g < 96 → (s.eng.pl.look g).phase = .idle →
    (s.eng.hr.look (g / 8)).turn = none → (s.eng.hr.look (g / 8)).testRun = false →
    (s.eng.jobs.map Job.key).Nodup → j.saved = none →
    (firstOf (eligible s.eng g) = some j ∧ (∀ k ∈ eligible s.eng g, (s.eng.pl.look g).incoming ≠ some k.slot)) ∨
      (j ∈ eligible s.eng g ∧ (s.eng.pl.look g).incoming = some j.slot) →
    exec (.jobSelect g) s =
      .next (s.onEng (s.eng.onPl g (fun p => { p with phase := .selected, cur := j.slot, incoming := none })))) ∧
  (∀ (s : State) (g : Nat), eligible s.eng g = [] ∨ (s.eng.pl.look g).phase ≠ .idle → Idles (.jobSelect g) s)

/-- A new job starts: PC at PROG_ENTRY, A0 to A3 at its tensors' and scales' bases, every other register, counter and
header 0, the shadow register 0, no reuse latch, and the two rows at PC being fetched; a staged job owes its copy (R21,
R116, R128, R129, R182, R255). A built-in job whose tensors and index lie in memories of the block that serve it runs
to its end: every byte that holds an element it writes holds the bits of that element, merged with the byte's other
bits, and no other byte changes; its record waits (R21, R43, R161-R166, R202, R239; operands are read in parts: log 12).
Which element supplies a position: a padding position the destination FILL, a gather the element its index names or the
source FILL, a reorder the element whose coordinates the destination's shifted ones give along AXES; of a scatter an
element lands where its index and PAD say or is dropped, a position that none reaches takes the destination FILL unless
PAD_KEEP is 1, and the elements are written in index order (R50, R51, R168-R171, R173, R174, R229). A source without
elements gives the source FILL everywhere (R48, the model's choice against R169 and R174, log 22). -/
def Obligations.JobStartSetsTheRegisters : Prop :=
  (∀ (s : State) (g : Nat) (j : Job), g < 96 → (s.eng.pl.look g).phase = .selected → s.eng.curJob g = some j →
    savedOut s.eng g = true → j.st = .ready → Quiet s (g / 8) → j.stage ≠ .copying →
    (j.desc.prog = true ∨ j.staged = true) →
    Reaches (.jobStart g) s (fun t =>
      let p := t.eng.pl.look g
      p.phase = .running ∧ p.cur = j.slot ∧ p.wait = .none ∧ p.flights = [] ∧ p.buf = [] ∧
      p.latches = ⟨none, none⟩ ∧
      p.ctx.pc = BitVec.ofNat 20 j.desc.progEntry ∧
      (∀ i, i < 16 → p.ctx.a.look i =
        match i with
        | 0 => BitVec.ofNat 64 j.desc.src.base
        | 1 => BitVec.ofNat 64 j.desc.dst.base
        | 2 => BitVec.ofNat 64 j.desc.src.scaleBase
        | 3 => BitVec.ofNat 64 j.desc.dst.scaleBase
        | _ => 0) ∧
      (∀ i, i < 8 → p.ctx.c.look i = 0 ∧ p.ctx.hdr.look i = ⟨0, false, 0⟩) ∧ p.ctx.n = 0 ∧ p.ctx.binds = [] ∧
      (∀ o, o < 8192 → Mem.byte p.tile (tileKey 8 o) = 0) ∧
      p.fetch = (if j.desc.prog
        then [rowOf (BitVec.ofNat 20 j.desc.progEntry), (rowOf (BitVec.ofNat 20 j.desc.progEntry) + 512) % 2 ^ 20]
        else []) ∧
      (∃ j', t.eng.jobAt j.key = some j' ∧ j'.st = .running ∧ j'.begun = true ∧
        j'.stage = (if j.staged then .owed else .none) ∧ j'.claims = j.claims) ∧
      OtherPl g s t ∧ OtherJobs j.key s t ∧ SameBytes s t ∧ t.eng.hed = s.eng.hed ∧ t.eng.hr = s.eng.hr ∧
      SameOutside s t)) ∧
  (∀ (s : State) (g : Nat) (j : Job), g < 96 → (s.eng.pl.look g).phase = .selected → s.eng.curJob g = some j →
    savedOut s.eng g = true → j.st = .ready → j.status = none → Quiet s (g / 8) → MemInv s →
    j.desc.prog = false → j.staged = false → j.boxes = [] → j.bphase = .start → j.undef = false →
    readsOut s.eng j = false → writesOut s.eng j.key = false →
    (j.desc.opc = 0 → j.units = none → selClass j.desc.sel ≠ 7 ∧ selClass j.desc.sel ≠ 8) →
    MemServes s j.secure (instOf g j.desc.src.space) → MemServes s j.secure (instOf g j.desc.dst.space) →
    (j.desc.opc ≠ 0 → MemServes s j.secure (instOf g j.desc.idxSpace)) →
    let d := j.desc
    let i := instOf g d.dst.space
    let idx (c : List Nat) : Option Int :=
      some (d.idxValue (readPieces (fun p => s.eng.mem.byte (instOf g d.idxSpace) p.addr) (d.idxPieces c)))
    let out := d.patch (fun p => s.eng.mem.byte (instOf g d.src.space) p.addr) (fun _ => false) (d.items j.units idx)
    Reaches (.jobStart g) s (fun t =>
      (∀ x ∈ out, (∀ p, i = .leaf p → x.1 < leafEnd) →
        t.eng.mem.byte i x.1 = patchByte x.2.1 x.2.2 (s.eng.mem.byte i x.1)) ∧
      (∀ i' a, i' ≠ i ∨ (∀ x ∈ out, placeKey i a ≠ placeKey i x.1) → t.eng.mem.byte i' a = s.eng.mem.byte i' a) ∧
      (∃ o, t.eng.jobAt j.key = some o ∧ o.st = .ended ∧ o.status = none ∧ o.poisoned = j.poisoned ∧
        o.oob = (j.oob || (decide (d.opc = 2) && d.scatterOob idx))) ∧
      (t.eng.pl.look g).phase = .idle ∧
      (∃ r, t.eng.hed = { s.eng.hed with ends := s.eng.hed.ends ++ [r] } ∧ r.ring = j.ring ∧ r.seq = j.seq ∧
        r.key = some j.key ∧ r.tag = d.tag) ∧
      OtherPl g s t ∧ OtherJobs j.key s t ∧ OtherHr (g / 8) s t ∧ SameOutside s t)) ∧
  (∀ (d : Desc) (route : Option (List Nat)) (idx : List Nat → Option Int) (c : List Nat),
    let pos (k : Nat) : Int := ((nth c k 0 : Nat) : Int) - d.padOf k
    let out := ∃ k, k < d.dst.r ∧ ¬(d.opc = 1 ∧ k = d.idxDim) ∧
      (pos k < 0 ∨ (d.src.ext (if d.opc = 0 then nth d.axes k 0 else k) : Int) ≤ pos k)
    let takes (co : Nat → Int) : Prop :=
      ((∀ k, k < 8 → 0 ≤ co k ∧ co k < (d.src.ext k : Int)) →
        ∃ e, d.supply route idx c = .elem e ∧ ∀ k, k < 8 → nth e k 0 = (co k).toNat) ∧
      (¬(∀ k, k < 8 → 0 ≤ co k ∧ co k < (d.src.ext k : Int)) → d.supply route idx c = .srcFill)
    (d.src.empty = true → d.supply route idx c = .srcFill) ∧
    (d.src.empty = false → out → d.supply route idx c = .dstFill) ∧
    (d.src.empty = false → ¬out → d.opc = 1 → idx c = none → d.supply route idx c = .srcFill) ∧
    (∀ x, d.src.empty = false → ¬out → d.opc = 1 → idx c = some x →
      takes (fun k => if k = d.idxDim then x else pos k)) ∧
    (d.src.empty = false → ¬out → d.opc = 0 → selClass d.sel = 0 →
      ∃ co : Nat → Int, takes co ∧ ∀ a, a < 8 →
        (∃ k, k < d.dst.r ∧ nth d.axes k 0 = a ∧ (∀ k', k < k' → k' < d.dst.r → nth d.axes k' 0 ≠ a) ∧ co a = pos k) ∨
        ((∀ k, k < d.dst.r → nth d.axes k 0 ≠ a) ∧ co a = 0))) ∧
  (∀ (d : Desc) (route : Option (List Nat)) (idx : List Nat → Option Int), d.opc = 2 → d.src.empty = false →
    let lands (s c : List Nat) : Prop :=
      s ∈ d.src.coords ∧ c.length = 8 ∧
      ∃ x, idx s = some x ∧ 0 ≤ x ∧ ∀ k, k < 8 →
        ((nth c k 0 : Nat) : Int) = (if k = d.idxDim then x else ((nth s k 0 : Nat) : Int) + d.padOf k) ∧
        nth c k 0 < d.dst.ext k
    (∀ s c, ⟨c, .elem s⟩ ∈ d.items route idx ↔ lands s c) ∧
    (∀ c, ⟨c, .dstFill⟩ ∈ d.items route idx ↔ d.padKeep = false ∧ c ∈ d.dst.coords ∧ ∀ s, ¬lands s c) ∧
    (∀ m n c c', m < n → n < d.src.count → lands (d.src.coord m) c → lands (d.src.coord n) c' →
      ∃ l r, d.items route idx = l ++ ⟨c, .elem (d.src.coord m)⟩ :: r ∧ ⟨c', .elem (d.src.coord n)⟩ ∈ r) ∧
    (d.scatterOob idx = true ↔ ∃ s ∈ d.src.coords, (idx s).isSome = true ∧ ∀ c, ¬lands s c))

/-- The staging copy of a job begins with its regions sampled: units of host memory are asked for, and units of the
block's memories are read at once; where all are, the copy is written, to the hedgerow's region by writes of 64 bytes
and to the privet region at once, a later unit standing where two fall on one place. It is complete once every write
of it has taken place (R181-R183, R401). A program row arrives from the hedge bank that serves it: its 512 bytes join
the buffer, which keeps the two newest rows; a sleeping bank starts to wake instead (R128, R205). -/
def Obligations.StagingCopyAndFetch : Prop :=
  ((∀ (s : State) (g : Nat) (j : Job), g < 96 → (s.eng.pl.look g).phase = .running → s.eng.curJob g = some j →
     j.stage = .owed → j.status = none → j.desc.prog = true → Quiet s (g / 8) → (∀ a, dtFind s.env a = none) →
     (s.eng.touchAll s.env j.key (j.boxes.map boxAccess)).2 = .ok → readsOut s.eng j = false →
     j.undef = false → MemInv s →
     (∀ b ∈ j.boxes, b.off % 64 = 0 ∧ b.privet = (b.inst == .privet)) →
     Reaches (.stagingCopyStart g) s (fun t =>
       ∃ j', t.eng.jobAt j.key = some j' ∧
         j'.boxes = j.boxes.map (sampleBox s.env (g / 8)) ∧ j'.st = j.st ∧ j'.claims = j.claims ∧
         t.eng.mem.bank = s.eng.mem.bank ∧ t.eng.mem.leaf = s.eng.mem.leaf ∧ t.eng.pl = s.eng.pl ∧
         t.eng.hed = s.eng.hed ∧ SameOutside s t ∧
         ((∃ x ∈ copyList j'.boxes, x.1.1.inst = .host) →
           j'.stage = .copying ∧ t.eng.mem = s.eng.mem ∧
           ∀ x ∈ copyList j'.boxes, x.1.1.inst = .host →
             Moving t j' false (x.1.2 % 2 ^ 52).toNat 64 [] [] (.stageRead x.2)) ∧
         ((∀ x ∈ copyList j'.boxes, x.1.1.inst ≠ .host) →
           j'.stage = .writing ∧
           ∀ x ∈ copyList j'.boxes,
             (∀ y ∈ copyList j'.boxes, x.2 < y.2 →
               ¬(y.1.1.privet = x.1.1.privet ∧ y.1.1.at y.1.2 = x.1.1.at x.1.2)) →
             let bytes := s.eng.mem.bytes x.1.1.inst (reduceInst x.1.1.inst x.1.2) 64
             (x.1.1.privet = false → Moving t j' true (x.1.1.at x.1.2) 64 (bytes.map some) [false] .stageWrite) ∧
             (x.1.1.privet = true → t.eng.mem.bytes .privet (x.1.1.at x.1.2) 64 = bytes)))) ∧
   (∀ (s : State) (g : Nat) (j : Job), s.eng.curJob g = some j → j.stage = .writing → copyWritesOut s.eng j = false →
     j.desc.prog = true → Quiet s (g / 8) →
     exec (.stagingCopyComplete g) s = .next (s.onEng (s.eng.onJob j.key (fun j => { j with stage := .done }))))) ∧
  (∀ (s : State) (g b : Nat) (rest : List Nat) (j : Job), g < 96 → (s.eng.pl.look g).phase = .running →
     s.eng.curJob g = some j → j.desc.prog = true → (s.eng.pl.look g).fetch = b :: rest →
     (BankServes s (g / 8) →
       exec (.programFetchReturn g) s =
         .next (s.onEng (s.eng.onPl g (fun p =>
           { p with
             buf := (p.buf ++ [(⟨b, (upTo 512).map (fun k => s.eng.mem.byte (.bank (g / 8)) (b + k))⟩ : FRow)]).drop
               (p.buf.length - 1)
             fetch := rest })))) ∧
     (s.env.isOff (g / 8) 3 = false → (s.eng.hr.look (g / 8)).hbInit = false →
       (s.eng.hr.look (g / 8)).hbRet = .retained →
       exec (.programFetchReturn g) s =
         .next (s.onEng (s.eng.onHr (g / 8) (fun r => { r with hbRet := .waking })))))

/-- At the end of a slice the job yields when another slot is READY, which is chosen at once, and is SUSPENDED from then
on: with nothing that runs to its end its context is saved, a switch is counted (log 95), and the chosen slot takes the
pleacher; without a READY slot it goes on (R255-R260). Instructions in flight that have issued all their row reads, as
every one but the newest has, run to their ends, the first of the others gives the restart context and is abandoned with
those behind it (R125, R130, R159; how many have, where R130 leaves it open: log 13): a load whose data are still out
keeps the pleacher, and the record is saved once the last of them has retired. The model's choices: an abandoned
instruction has written no row (log 70), and the restart context carries the headers (log 71) and the binding list
(log 68). -/
def Obligations.QuantumYields : Prop :=
  let suspended (s t : State) (g : Nat) (j k : Job) : Prop :=
    (t.eng.pl.look g).phase = .selected ∧ (t.eng.pl.look g).cur = k.slot ∧ (t.eng.pl.look g).flights = [] ∧
    (∃ j', t.eng.jobAt j.key = some j' ∧ j'.st = .suspended ∧ j'.saved.isSome = true ∧ j'.savedOk = true ∧
      j'.claims = j.claims ∧ j'.status = none) ∧
    (t.eng.hr.look (g / 8)).cnt.switches = satInc (s.eng.hr.look (g / 8)).cnt.switches 1 ∧
    OtherPl g s t ∧ OtherHr (g / 8) s t ∧ SameBytes s t ∧ t.eng.hed = s.eng.hed ∧ SameOutside s t
  ∀ (s : State) (g : Nat) (j k : Job), g < 96 → (s.eng.pl.look g).phase = .running → s.eng.curJob g = some j →
    j.status = none → j.secure = false → (s.eng.hr.look (g / 8)).turn = none →
    (s.eng.hr.look (g / 8)).testRun = false → Quiet s (g / 8) → (s.eng.jobs.map Job.key).Nodup →
    let p := s.eng.pl.look g
    (j.st = .running → eligible s.eng g = [] → ∀ n, Idles (.sliceQuantum g n) s) ∧
    (j.st = .suspended → ∀ n, Idles (.sliceQuantum g n) s) ∧
    (j.st = .running → firstOf (eligible s.eng g) = some k → k.saved = none → ∀ n,
      let run := p.running s.eng j n
      (∀ f ∈ run, f.readAll s.eng p j n = true) ∧
      (∃ rest, p.flights = run ++ rest ∧ ∀ f more, rest = f :: more → f.readAll s.eng p j n = false) ∧
      (run = [] → j.desc.prog = true ∨ dataOut s.eng j = false →
        Reaches (.sliceQuantum g n) s (fun t =>
          suspended s t g j k ∧
          ∃ j', t.eng.jobAt j.key = some j' ∧
            j'.saved = some (match p.flights with | f :: _ => f.ckpt | [] => p.ctx))) ∧
      (j.desc.prog = true → run ≠ [] → (∀ f ∈ run, ∃ i a key, f.deliver = .load i a key ∧ keyPending s.eng j key = true) →
        Reaches (.sliceQuantum g n) s (fun t =>
          let q := t.eng.pl.look g
          q.phase = .running ∧ q.cur = p.cur ∧ q.wait = .yielding ∧ q.flights = run ∧ q.incoming = some k.slot ∧
          q.tile = p.tile ∧
          q.ctx = (match p.flights.drop run.length with | f :: _ => f.ckpt | [] => p.ctx) ∧
          (∃ j', t.eng.jobAt j.key = some j' ∧ j'.st = .suspended ∧ j'.status = none) ∧
          OtherPl g s t ∧ SameBytes s t ∧ t.eng.hed = s.eng.hed ∧ SameOutside s t)) ∧
      (∀ (f : Flight) (t' : Nat) (sh : W32) (img : List Byte), p.flights = [f] → f.id ≠ p.newest →
        f.deliver = .reg t' sh img → t' < 8 → img.length ≤ 8192 → f.mid.length ≤ 8192 → Mem.wf p.tile →
        dataOut s.eng j = false →
        Reaches (.sliceQuantum g n) s (fun t =>
          suspended s t g j k ∧ (∀ o, o < img.length → Mem.byte (t.eng.pl.look g).tile (tileKey t' o) = byteAt img o) ∧
          ∃ j', t.eng.jobAt j.key = some j' ∧ j'.saved =
            some { p.ctx with hdr := p.ctx.hdr.put t' ⟨(shapeOf sh).foot, true, sh &&& 0xFFFFFF80#32⟩ }))) ∧
    (∀ (f : Flight) (id n t' : Nat) (sh : W32) (img : List Byte), j.st = .suspended → p.wait = .yielding →
      p.flights = [f] → f.id = id →
      f.deliver = .reg t' sh img → t' < 8 → dataOut s.eng j = false → k ∈ eligible s.eng g → k.saved = none →
      p.incoming = some k.slot →
      Reaches (.instructionRetire g id n) s (fun t =>
        suspended s t g j k ∧
        ∃ j', t.eng.jobAt j.key = some j' ∧ j'.saved =
          some { p.ctx with hdr := p.ctx.hdr.put t' ⟨(shapeOf sh).foot, true, sh &&& 0xFFFFFF80#32⟩ }))

/-- A suspended job that has left its pleacher is READY again once its save record is written, behind every slot that is
READY; the record in a
privet slot is valid from then on (R255, R257, R260, R379). The last row of a restored job brings its context and tile
rows back, rows that were not saved keep what the array held, and it runs again from its saved PC (R116, R118, R128,
R259). Of the tile rows: a row that the record holds reads as the record's, every other row as before, and the shadow
register as 0 (R116, R118). The context that comes back is the copy State keeps with the job, since no rule gives the
sequencer row's encoding (log 9). -/
def Obligations.SavedJobsComeBack : Prop :=
  (∀ (s : State) (g slot : Nat) (j : Job), s.eng.jobAt (g, slot) = some j → j.st = .suspended → j.status = none →
     j.onPleacher s.eng = false → (∀ r ∈ j.xq, r.purpose ≠ .save) →
     (∀ x ∈ (s.eng.hr.look (g / 8)).xacts, ¬(x.owner = (g, slot) ∧ x.purpose = .save ∧ x.timedOut = false)) →
     wbit s.env.regs.sliceCfg 20 = false ∨ j.windowOpen = false →
     Reaches (.saveRecordDone g slot) s (fun t =>
       (∃ j', t.eng.jobAt (g, slot) = some j' ∧ j' = { j with st := .ready, stamp := s.eng.stamp }) ∧
       t.eng.stamp = s.eng.stamp + 1 ∧ OtherJobs (g, slot) s t ∧
       (∀ p, j.saveAt = .privet p → p ∈ t.eng.pvSlots) ∧
       t = s.onEng { s.eng with jobs := t.eng.jobs, stamp := s.eng.stamp + 1, pvSlots := t.eng.pvSlots })) ∧
  (∀ (s : State) (g : Nat) (j : Job) (c : Ctx), g < 96 → (s.eng.pl.look g).phase = .restoring →
     s.eng.curJob g = some j → readsOut s.eng j = false → savedOut s.eng g = true → j.status = none →
     j.saved = some c → j.savedOk = true → j.saveAt = .host → j.desc.prog = true → Quiet s (g / 8) →
     j.stage ≠ .copying → j.later = [] →
     Reaches (.restoreDone g) s (fun t =>
       let p := t.eng.pl.look g
       p.phase = .running ∧ p.ctx = c ∧
       p.tile = restoreRows (s.eng.pl.look g).tile c (fun o => Mem.byte j.rd (restoreKey + o)) ∧ p.flights = [] ∧
       p.wait = .none ∧ p.latches = ⟨none, none⟩ ∧ p.buf = [] ∧ p.fetch = [rowOf c.pc, (rowOf c.pc + 512) % 2 ^ 20] ∧
       (∃ j', t.eng.jobAt j.key = some j' ∧ j'.st = .running ∧ j'.saveAt = .none ∧ j'.claims = j.claims) ∧
       OtherPl g s t ∧ OtherJobs j.key s t ∧ SameBytes s t ∧ t.eng.hed = s.eng.hed ∧ t.eng.hr = s.eng.hr ∧
       SameOutside s t)) ∧
  (∀ (m : Mem) (c : Ctx) (img : Nat → Byte), m.wf → (∀ t, t < 8 → (c.hdr.look t).foot ≤ 16) →
     (∀ n x o, (recordRows c)[n]? = some x → o < 512 →
       Mem.byte (restoreRows m c img) (tileKey x.1 (512 * x.2 + o)) = img (512 * (1 + n) + o)) ∧
     (∀ t o, t < 8 → o < 8192 → (t, o / 512) ∉ recordRows c →
       Mem.byte (restoreRows m c img) (tileKey t o) = Mem.byte m (tileKey t o)) ∧
     (∀ o, o < 8192 → Mem.byte (restoreRows m c img) (tileKey 8 o) = 0) ∧
     (∀ t k, (t, k) ∈ recordRows c ↔ t < 8 ∧ (c.hdr.look t).inuse = true ∧ k < (c.hdr.look t).foot))

/-! ### Instructions -/

/-- An instruction whose shapes fail at issue does not execute: the job's status is SHAPE_FAULT with PC >> 4 as
FAULT_IDX, and no header, address register or counter changes (R110, R126, R154, R158). The shapes are checked as the
instruction is presented, before any hold of R124 or R157 (log 69). -/
def Obligations.ShapeFaultStopsIssue : Prop :=
  ∀ (s : State) (g : Nat) (j : Job) (i : Insn), MayIssue s g j i → shapeFault i = true → j.secure = false →
    Reaches (issueCommand g i) s (fun t =>
      (∃ j', t.eng.jobAt j.key = some j' ∧ j'.status = some .shapeFault ∧
        j'.faultIdx = BitVec.ofNat 16 ((s.eng.pl.look g).ctx.pc.toNat / 16)) ∧
      (t.eng.pl.look g).ctx = (s.eng.pl.look g).ctx ∧ (t.eng.pl.look g).tile = (s.eng.pl.look g).tile ∧
      OtherPl g s t ∧ OtherJobs j.key s t ∧ t.eng.hr = s.eng.hr ∧ SameOutside s t)

/-- A shape that passes R110 and an image made of elements: every element of the image reads back, and a byte that
holds no bit of any element is 0 (R111, R112). What a job writes to a destination without MX reads back too: the bits
of an element that no later element overwrites, and a bit that no element covers keeps its value (R43, R44). A value
that a floating-point format holds encodes as itself (R66-R67). A magnitude between two grid points rounds down, to the
nearest with ties to even, or by the random value of the element; the grid of a floating-point format is that of the
value's binade, and never finer than the smallest subnormal (R69-R71). A rounded value beyond the largest finite one,
an infinity and a NaN become what the tables give, and every other one keeps its sign; an integer is saturated or
wrapped (R73-R74). E8M0 takes the logarithm, clamped (R76-R77), and an MXINT8 element is never 0x80 (R78). A block
takes its scale from its greatest finite magnitude, 0x7F without one, and 0xFF with elements of 0 where it holds a NaN
(R79-R80). Equal formats and RAW8 copy bits (R66-R67, R76-R77). -/
def Obligations.ImageElementsReadBack : Prop :=
  (∀ (d : Shape) (f : Nat → Nat → Nat), d.bad = false →
    (∀ r c, r < d.rows → c < d.cols → f r c < 2 ^ d.w →
      elemAt d (byteAt (imageOf d (512 * d.foot) f)) r c = f r c) ∧
    (∀ o, (∀ r c, r < d.rows → c < d.cols → o ∉ elemBytes d r c) →
      byteAt (imageOf d (512 * d.foot) f) o = 0)) ∧
  (∀ (d : Desc) (get : Piece → Byte) (lost : Piece → Bool) (old : Nat → Byte), d.dst.fmt.isMx = false →
    (∀ pre i post, (d.dst.pieces i.dst).Pairwise Apart →
      (∀ k ∈ post, ∀ p ∈ d.dst.pieces i.dst, ∀ q ∈ d.dst.pieces k.dst, Apart p q) →
      readPieces (fun p => patched (d.patch get lost (pre ++ i :: post)) old p.addr) (d.dst.pieces i.dst) =
        d.encoded get lost i % 2 ^ d.dst.w) ∧
    (∀ is a k, k < 8 → (∀ i ∈ is, ∀ p ∈ d.dst.pieces i.dst, p.addr = a → k < p.sh ∨ p.sh + p.n ≤ k) →
      (patched (d.patch get lost is) old a).toNat.testBit k = (old a).toNat.testBit k)) ∧
  (∀ (f : Flt) (cv : Conv) (x : Nat) (n : Bool) (m : Nat) (e : Int), x < 2 ^ f.width → f.decode x = .num n m e →
    f.encode cv (f.decode x) = x) ∧
  (∀ (w : Nat) (cv : Conv) (i : Int), 0 < w →
    (Fmt.uint w).encode cv (intVal i) =
      (if (0 ≤ i ∧ i < 2 ^ w) ∨ cv.wrap = true then (i % 2 ^ w).toNat else if i < 0 then 0 else 2 ^ w - 1) ∧
    (Fmt.sint w).encode cv (intVal i) =
      (if (-(2 ^ (w - 1)) ≤ i ∧ i < 2 ^ (w - 1)) ∨ cv.wrap = true then (i % 2 ^ w).toNat
       else if i < 0 then 2 ^ (w - 1) else 2 ^ (w - 1) - 1)) ∧
  (∀ (cv : Conv) (m : Nat) (e q : Int), e < q →
    let g := 2 ^ (q - e).toNat
    let n := roundMag cv m e q
    (cv.rnd = .rtz → n * g ≤ m ∧ m < (n + 1) * g) ∧
    (cv.rnd = .rne → 2 * (n * g) ≤ 2 * m + g ∧ 2 * m ≤ 2 * (n * g) + g ∧
      (2 * (n * g) = 2 * m + g ∨ 2 * m = 2 * (n * g) + g → n % 2 = 0)) ∧
    (cv.rnd = .sr → cv.u < 65536 → (m % g = 0 → n * g = m) ∧ (n = m / g ∨ n = m / g + 1) ∧
      (n = m / g + 1 ↔ 65536 ≤ m % g * 65536 / g + cv.u))) ∧
  (∀ seed i, seed < 2 ^ 32 → srU seed i = mixed seed i) ∧
  (∀ (f : Flt) (cv : Conv) (neg : Bool),
    let sign := if neg then 2 ^ (f.width - 1) else 0
    f.encode cv (.nan neg) = (fltRow f).nan + nanSign f neg ∧
    f.encode cv (.inf neg) = (if cv.wrap = true then (fltRow f).infWrap else (fltRow f).infSat) + sign ∧
    (∀ e, f.encode cv (.num neg 0 e) = sign) ∧
    (∀ m e, m ≠ 0 →
      let least : Int := 1 - f.bias - f.mBits
      let q : Int := max ((lg m : Int) + e - f.mBits) least
      let v := roundMag cv m e q * 2 ^ (q - least).toNat
      let x := f.encode cv (.num neg m e)
      ((fltRow f).top < v →
        x = (if cv.wrap = true ∧ cv.rnd ≠ .rtz then (fltRow f).overWrap else (fltRow f).overSat) + sign) ∧
      (v ≤ (fltRow f).top → x < 2 ^ f.width ∧
        ∃ m' e', f.decode x = .num neg m' e' ∧ least ≤ e' ∧ m' * 2 ^ (e' - least).toNat = v))) ∧
  (∀ (w : Nat) (cv : Conv) (neg : Bool), 0 < w →
    (Fmt.uint w).encode cv (.nan neg) = 0 ∧ (Fmt.sint w).encode cv (.nan neg) = 0 ∧
    (Fmt.uint w).encode cv (.inf neg) = (if neg then 0 else 2 ^ w - 1) ∧
    (Fmt.sint w).encode cv (.inf neg) = (if neg then 2 ^ (w - 1) else 2 ^ (w - 1) - 1) ∧
    (∀ m e,
      let n : Int := if neg then -(roundMag cv m e 0) else roundMag cv m e 0
      (Fmt.uint w).encode cv (.num neg m e) = (Fmt.uint w).encode cv (intVal n) ∧
      (Fmt.sint w).encode cv (.num neg m e) = (Fmt.sint w).encode cv (intVal n))) ∧
  (∀ (cv : Conv) (neg : Bool),
    let ends := if neg then 0x81 else 0x7F
    Fmt.mxint8.encode cv (.nan neg) = 0 ∧ Fmt.mxint8.encode cv (.inf neg) = ends ∧
    (∀ m e,
      let n := roundMag cv m e (-6)
      let i : Int := if neg then -n else n
      Fmt.mxint8.encode cv (.num neg m e) =
        if n ≤ 127 ∨ (cv.wrap = true ∧ i % 256 ≠ 128) then (i % 256).toNat else ends)) ∧
  (∀ (cv : Conv) (neg : Bool),
    Fmt.e8m0.encode cv (.nan neg) = 0xFF ∧ Fmt.e8m0.encode cv (.inf neg) = (if cv.wrap = true then 0xFF else 0xFE) ∧
    (∀ e, Fmt.e8m0.encode cv (.num neg 0 e) = 0) ∧
    (∀ v l, Val.logIs v l →
      (l + 127 < 0 → Fmt.e8m0.encode cv v = 0) ∧ (254 < l + 127 → Fmt.e8m0.encode cv v = 254) ∧
      (0 ≤ l + 127 ∧ l + 127 ≤ 254 → (Fmt.e8m0.encode cv v : Int) = l + 127))) ∧
  (∀ dst emax, (dst, emax) ∈ mxMax → ∀ (rnd : Rnd) (wrap : Bool) (xs : List MxIn),
    let block := mxBlock dst false rnd wrap xs
    let held (k : Int) : List Nat := xs.map (fun x => dst.encode ⟨rnd, wrap, x.u⟩ (x.val.scale (-k)))
    mxBlock dst true rnd wrap xs = (0x7F, xs.map (fun x => x.raw)) ∧
    ((∃ x ∈ xs, ∃ neg, x.val = .nan neg) → block = (0xFF, xs.map (fun _ => 0))) ∧
    ((∀ x ∈ xs, ∀ neg, x.val ≠ .nan neg) →
      ((∀ x ∈ xs, ∀ l, ¬Val.logIs x.val l) → block = (0x7F, held 0)) ∧
      (∀ l, (∃ x ∈ xs, Val.logIs x.val l) → (∀ x ∈ xs, ∀ k, Val.logIs x.val k → k ≤ l) →
        let k := max (-127) (min 127 (l - emax))
        (block.1 : Int) = k + 127 ∧ block.2 = held k))) ∧
  (∀ (src dst : Fmt) (cv : Conv) (x scale : Nat), src.isMx = false →
    (src = dst → convElem src dst (src == dst) cv x scale = x % 2 ^ src.width) ∧
    (src ≠ dst → src = .raw8 ∨ dst = .raw8 →
      convElem src dst (src == dst) cv x scale = x % 2 ^ min 8 (min src.width dst.width)))

/-- What the register operations compute, element by element, for shapes that pass the checks of R154: TXP, TGATH,
TSCAT, TPLANE, TSWZ, TFILL in both forms, TCAT, TPERM under the row function of its route, the copy form of TMOV, and
the images of TLD and TST (R142-R144, R146-R153). -/
def Obligations.TileOperationsElementwise : Prop :=
  (∀ (i : Insn) (fill : Nat) (sa sb old : Nat → Byte) (r c : Nat),
    let a := shapeOf (w2Of i)
    let b := shapeOf (w1Of i)
    let d := shapeOf (w3Of i)
    let at_ (img : List Byte) : Nat := elemAt d (byteAt img) r c
    shapeFault i = false → r < d.rows → c < d.cols →
    (opOf i = 0x04 → at_ (txpImage i sa) = elemAt a sa c r) ∧
    (opOf i = 0x05 → subOf i 0 1 = 0 →
      let x := indexAt b sb (if b.rows = 1 then 0 else r) c
      at_ (tgathImage i fill sa sb) = if 0 ≤ x ∧ x < a.cols then elemAt a sa r x.toNat else fill % 2 ^ d.w) ∧
    (opOf i = 0x05 → subOf i 0 1 = 1 →
      let x := indexAt b sb 0 r
      at_ (tgathImage i fill sa sb) = if 0 ≤ x ∧ x < a.rows then elemAt a sa x.toNat c else fill % 2 ^ d.w) ∧
    (opOf i = 0x06 →
      let n := if subOf i 0 1 = 0 then a.cols else a.rows
      let goes (k : Nat) : Prop :=
        (if subOf i 0 1 = 0 then indexAt b sb (if b.rows = 1 then 0 else r) k = (c : Int) else indexAt b sb 0 k = (r : Int))
      let from_ (k : Nat) : Nat := if subOf i 0 1 = 0 then elemAt a sa r k else elemAt a sa k c
      (∀ k, k < n → goes k → (∀ l, k < l → l < n → ¬goes l) → at_ (tscatImage i fill sa sb old) = from_ k) ∧
      ((∀ k, k < n → ¬goes k) →
        at_ (tscatImage i fill sa sb old) = if subOf i 1 1 = 1 then elemAt d old r c else fill % 2 ^ d.w)) ∧
    (opOf i = 0x07 →
      ∀ q, q < d.w → (at_ (tplaneImage i sa)).testBit q = (elemAt a sa r c).testBit (subOf i 0 5 + q)) ∧
    (opOf i = 0x08 → ∀ moved : Nat → Byte,
      let plane (o : Nat) : Nat := if d.layout = .plane then o / (d.rows * d.pitch) else 0
      (∀ o p, o < 512 * d.foot → p < 512 * d.foot → insnSwz i o (plane o) = p →
        (∀ l, o < l → l < 512 * d.foot → insnSwz i l (plane l) ≠ p) → moved p = sa o) →
      (∀ p, p < 512 * d.foot → (∀ o, o < 512 * d.foot → insnSwz i o (plane o) ≠ p) → moved p = 0) →
      at_ (tswzImage i sa) = elemAt d moved r c) ∧
    (opOf i = 0x09 → subOf i 0 1 = 0 → at_ (tfillImage i fill) = fill % 2 ^ d.w) ∧
    (opOf i = 0x09 → subOf i 0 1 = 1 →
      let x : Int := (r : Int) - signed 9 (bits i.toNat 41 9)
      let y : Int := (c : Int) - signed 9 (bits i.toNat 32 9)
      at_ (tpadImage i fill sa) =
        if 0 ≤ x ∧ x < a.rows ∧ 0 ≤ y ∧ y < a.cols then elemAt a sa x.toNat y.toNat else fill % 2 ^ d.w) ∧
    (opOf i = 0x0A → subOf i 0 1 = 0 →
      at_ (tcatImage i sa sb) = if c < a.cols then elemAt a sa r c else elemAt b sb r (c - a.cols)) ∧
    (opOf i = 0x0A → subOf i 0 1 = 1 →
      at_ (tcatImage i sa sb) = if r < a.rows then elemAt a sa r c else elemAt b sb (r - a.rows) c)) ∧
  (∀ (i : Insn) (row : Nat → List Byte → List Byte) (sa : Nat → Byte) (r c : Nat),
    let d := shapeOf (w3Of i)
    opOf i = 0x03 → shapeFault i = false → r < d.rows → c < d.cols → (∀ k x, x.length = 512 → (row k x).length = 512) →
    elemAt d (byteAt (tpermImage i row sa)) r c =
      elemAt d (fun o => byteAt (row (o / 512) ((upTo 512).map (fun l => sa (512 * (o / 512) + l)))) (o % 512)) r c) ∧
  (∀ (i : Insn) (seed n fill r c : Nat) (sa get : Nat → Byte) (lost : Nat → Bool),
    let a := shapeOf (w2Of i)
    let d := shapeOf (w3Of i)
    let space := subOf i 0 2
    let cv := insnConv i seed n r c
    let y := if subOf i 3 1 = 1 then c else r
    let x := if subOf i 3 1 = 1 then r else c
    let made (v scale : Nat) : Nat := convElem a.fmt d.fmt (a.fmt == d.fmt) cv v scale % 2 ^ d.w
    shapeFault i = false → r < d.rows → c < d.cols →
    (opOf i = 0x0B → subOf i 0 3 = 0 →
      elemAt d (byteAt (tmovImage i seed n sa)) r c = made (elemAt a sa r c) 127) ∧
    (opOf i = 0x01 →
      let taken := ∀ o ∈ elemBytes a y x, lost o = false
      let scaled := a.fmt.isMx = true → lost (memLen space a + y * ceilDiv a.cols 32 + x / 32) = false
      (taken ∧ scaled → a.fmt.isMx = false →
        elemAt d (byteAt (tldImage i seed n fill get lost)) r c = made (elemAt a get y x) 127) ∧
      (taken ∧ scaled → a.fmt.isMx = true →
        elemAt d (byteAt (tldImage i seed n fill get lost)) r c =
          made (elemAt a get y x) (get (memLen space a + y * ceilDiv a.cols 32 + x / 32)).toNat) ∧
      (¬(taken ∧ scaled) →
        elemAt d (byteAt (tldImage i seed n fill get lost)) r c = made (fill % 2 ^ a.w) 127)) ∧
    (opOf i = 0x02 → d.fmt.isMx = false →
      elemAt d (byteAt (tstImage i seed n sa)) r c = made (elemAt a sa y x) 127) ∧
    (opOf i = 0x02 → d.fmt.isMx = true →
      let blk := mxBlock d.fmt (a.fmt == .raw8) cv.rnd cv.wrap
        ((upTo (min 32 (d.cols - c / 32 * 32))).map (fun k =>
          let v := if subOf i 3 1 = 1 then elemAt a sa (c / 32 * 32 + k) r else elemAt a sa r (c / 32 * 32 + k)
          ⟨a.fmt.decode v 127, rawCopy a.w d.w v, (insnConv i seed n r (c / 32 * 32 + k)).u⟩))
      elemAt d (byteAt (tstImage i seed n sa)) r c = nth blk.2 (c % 32) 0 % 2 ^ d.w ∧
      byteAt (tstImage i seed n sa) (memLen space d + r * ceilDiv d.cols 32 + c / 32) = BitVec.ofNat 8 blk.1))

/-- A register-to-register row instruction whose registers are free, and before which every row read of the job has
issued, is issued: it is in flight with the image it will write to TD, in place when TD is a source, and until it
retires nothing changes but the context, the reuse latches, through which its reads pass, and the number that it takes
(its operands are read at issue: log 12; the order of the reads in the latches: log 73). TSCAT marks the elements it
drops, a converting TMOV counts (R72, R119, R122-R124, R130, R146-R153). -/
def Obligations.RegisterOperationsIssue : Prop :=
  ∀ (s : State) (g : Nat) (j : Job) (i : Insn), MayIssue s g j i → shapeFault i = false →
    let p := s.eng.pl.look g
    let td := tdOf i
    let ta := taOf i
    let tb := tbOf i
    let a := operand s g ta
    let b := operand s g tb
    let fill := (p.ctx.a.look (axOf i)).toNat
    let flight (reads : List Nat) (img : List Byte) (oob : Bool) : Flight :=
      ⟨0, reads, [td], reads.contains td, 9, 0, 0, false, .reg td (w3Of i) img, [], oob, Ctx.reset⟩
    let issues (c : Instr) (reads : List Nat) (img : List Byte) (oob : Bool) (after : Ctx → Ctx) : Prop :=
      scoreboard s.eng p j reads [td] (reads.contains td) = true →
      exec c s = .next (issued s g i (flight reads img oob) after)
    (opOf i = 0x04 → issues (.txp g) [ta] (txpImage i a) false id) ∧
    (opOf i = 0x05 → issues (.tgath g) [ta, tb] (tgathImage i fill a b) false id) ∧
    (opOf i = 0x06 → subOf i 1 1 = 0 → issues (.tscat g) [ta, tb] (tscatImage i fill a b (operand s g td)) (tscatOob i b) id) ∧
    (opOf i = 0x06 → subOf i 1 1 = 1 →
      issues (.tscat g) [ta, tb, td] (tscatImage i fill a b (operand s g td)) (tscatOob i b) id) ∧
    (opOf i = 0x07 → issues (.tplane g) [ta] (tplaneImage i a) false id) ∧
    (opOf i = 0x08 → issues (.tswz g) [ta] (tswzImage i a) false id) ∧
    (opOf i = 0x09 → subOf i 0 1 = 0 → issues (.tfillFill g) [] (tfillImage i fill) false id) ∧
    (opOf i = 0x09 → subOf i 0 1 = 1 → issues (.tfillPad g) [ta] (tpadImage i fill a) false id) ∧
    (opOf i = 0x0A → issues (.tcat g) [ta, tb] (tcatImage i a b) false id) ∧
    (opOf i = 0x0B → subOf i 0 3 = 0 →
      issues (.tmovCopy g) [ta] (tmovImage i j.desc.seed p.ctx.n.toNat a) false
        (fun c => { c with n := if converting i then c.n + 1 else c.n }))

/-- A TLD from a memory of the block that serves it is issued with the image its bytes give, one from host memory is
in flight until its bytes arrive, which are asked for as it issues, and a TST is issued with the image it will store;
with PI = 1 the address register advances by DISP, and a converting form counts; access to the privet bank that is not
admitted gives PRIVET_DENIED (R140, R142-R144, R201; operands are read at issue: log 12; the order of a TST's reads in
the latches: log 73; the privet check comes before any hold: log 69). Of a staged job, an operand byte inside a staged
box is read from its copy: in the privet region at once, in the hedgerow's region by reads that are asked for; a load
of such bytes, and every store, waits until the copy is complete (R180-R183; the address by which an operand meets a
box: log 37). -/
def Obligations.LoadsAndStoresIssue : Prop :=
  (∀ (s : State) (g : Nat) (j : Job) (i : Insn), MayIssue s g j i → shapeFault i = false → j.boxes = [] →
    j.staged = false → Quiet s (g / 8) →
    let p := s.eng.pl.look g
    let space := subOf i 0 2
    let a := operandAt p.ctx i
    let trans := decide (subOf i 3 1 = 1)
    let pi := decide (subOf i 2 1 = 1)
    let disp := (w1Of i).signExtend 64
    let after (c : Ctx) : Ctx :=
      { c with
        a := if pi then c.a.put (axOf i) (c.a.look (axOf i) + disp) else c.a
        n := if converting i then c.n + 1 else c.n }
    (opOf i = 0x01 → space ≠ 0 → (space = 3 → pvAdmits s.env s.eng j.secure = true) →
      let n := operandLen space (shapeOf (w2Of i))
      let get (o : Nat) : Byte := s.eng.mem.byte (instOf g space) (reduceAt space (a + o))
      scoreboard s.eng p j [] [tdOf i] trans = true → storePending s.eng j space a n = false →
      (s.eng.touchAll s.env j.key (blockOf j (operandSpots j g space a n))).2 = .ok →
      exec (.tld g) s =
        .next (issued s g i
          ⟨0, [], [tdOf i], trans, space, a, a + n, true,
            .reg (tdOf i) (w3Of i) (tldImage i j.desc.seed p.ctx.n.toNat j.desc.src.fill get (fun _ => false)),
            if trans then tldMid i j.desc.seed p.ctx.n.toNat j.desc.src.fill get (fun _ => false) else [],
            false, Ctx.reset⟩ after)) ∧
    (opOf i = 0x01 → space = 0 → scoreboard s.eng p j [] [tdOf i] trans = true →
      storePending s.eng j 0 a (operandLen 0 (shapeOf (w2Of i))) = false →
      Reaches (.tld g) s (fun t =>
        (∃ f, (t.eng.pl.look g).flights = p.flights ++ [f] ∧ f.id = s.eng.stamp ∧ f.writes = [tdOf i] ∧
          f.deliver = .load i a (keyOf s.eng.stamp) ∧ f.ckpt = p.ctx) ∧
        (t.eng.pl.look g).ctx = { after p.ctx with pc := p.ctx.pc + 16 } ∧
        (t.eng.pl.look g).tile = p.tile ∧
        ((∀ b, dtFind s.env b = none) →
          ∃ j', t.eng.jobAt j.key = some j' ∧ ∀ k, k < operandLen 0 (shapeOf (w2Of i)) →
            ∃ ad len, Moving t j' false ad len [] [] (.data (keyOf s.eng.stamp + ad)) ∧
              ad ≤ (a + k) % 2 ^ 52 ∧ (a + k) % 2 ^ 52 < ad + len) ∧
        OtherPl g s t ∧ OtherJobs j.key s t ∧ OtherHr (g / 8) s t ∧ SameBytes s t ∧ SameOutside s t)) ∧
    (opOf i = 0x02 → (space = 3 → pvAdmits s.env s.eng j.secure = true) →
      let n := operandLen space (shapeOf (w3Of i))
      scoreboard s.eng p j [taOf i] [] trans = true → storePending s.eng j space a n = false →
      exec (.tst g) s =
        .next (issued s g i
          ⟨0, [taOf i], [], trans, space, a, a + n, false,
            .store space a (tstImage i j.desc.seed p.ctx.n.toNat (operand s g (taOf i))),
            if trans then tstMid i (operand s g (taOf i)) else [], false, Ctx.reset⟩ after)) ∧
    (opOf i = 0x01 ∨ opOf i = 0x02 → space = 3 → pvAdmits s.env s.eng j.secure = false → j.secure = false →
      Reaches (issueCommand g i) s (fun t =>
        (∃ j', t.eng.jobAt j.key = some j' ∧ j'.status = some .privetDenied) ∧
        (t.eng.pl.look g).ctx = p.ctx ∧ (t.eng.pl.look g).tile = p.tile ∧ t.eng.mem.privet = s.eng.mem.privet))) ∧
  (∀ (s : State) (g : Nat) (j : Job) (i : Insn), MayIssue s g j i → shapeFault i = false → Quiet s (g / 8) →
    (subOf i 0 2 = 3 → pvAdmits s.env s.eng j.secure = true) →
    let p := s.eng.pl.look g
    let space := subOf i 0 2
    let a := operandAt p.ctx i
    let trans := decide (subOf i 3 1 = 1)
    let after (c : Ctx) : Ctx :=
      { c with
        a := if subOf i 2 1 = 1 then c.a.put (axOf i) (c.a.look (axOf i) + (w1Of i).signExtend 64) else c.a
        n := if converting i then c.n + 1 else c.n }
    let n := operandLen space (shapeOf (w2Of i))
    let un (o : Nat) : Int := j.unOf (instOf g space) (reduceAt space (a + o))
    let box (o : Nat) : Option StagedBox := j.stagedAt (instOf g space) (un o)
    (opOf i = 0x01 → j.staged = true → j.stage ≠ .done →
      (∃ sp ∈ operandSpots j g space a n, (j.stagedAt sp.1 sp.2.1).isSome = true) → Idles (.tld g) s) ∧
    (opOf i = 0x02 → j.staged = true → j.stage ≠ .done → Idles (.tst g) s) ∧
    (opOf i = 0x01 → j.stage = .done → scoreboard s.eng p j [] [tdOf i] trans = true →
      storePending s.eng j space a n = false →
      ((∀ sp ∈ operandSpots j g space a n, (j.placeOf sp).1 ≠ .host) →
        (s.eng.touchAll s.env j.key (blockOf j (operandSpots j g space a n))).2 = .ok →
        let get (o : Nat) : Byte :=
          match box o with
          | some b => if b.privet then s.eng.mem.byte .privet (b.at (un o)) else 0
          | none => if space = 0 then 0 else s.eng.mem.byte (instOf g space) (reduceAt space (a + o))
        exec (.tld g) s =
          .next (issued s g i
            ⟨0, [], [tdOf i], trans, space, a, a + n, true,
              .reg (tdOf i) (w3Of i) (tldImage i j.desc.seed p.ctx.n.toNat j.desc.src.fill get (fun _ => false)),
              if trans then tldMid i j.desc.seed p.ctx.n.toNat j.desc.src.fill get (fun _ => false) else [],
              false, Ctx.reset⟩ after)) ∧
      ((∀ b ∈ j.boxes, b.base % 65536 = 0 ∧ b.off % 64 = 0) →
        (∀ sp ∈ operandSpots j g space a n, ∃ b, j.stagedAt sp.1 sp.2.1 = some b ∧ b.privet = false) →
        Reaches (.tld g) s (fun t =>
          (∃ f, (t.eng.pl.look g).flights = p.flights ++ [f] ∧ f.id = s.eng.stamp ∧ f.writes = [tdOf i] ∧
            f.deliver = .load i a (keyOf s.eng.stamp) ∧ f.ckpt = p.ctx) ∧
          (t.eng.pl.look g).ctx = { after p.ctx with pc := p.ctx.pc + 16 } ∧ (t.eng.pl.look g).tile = p.tile ∧
          (∃ j', t.eng.jobAt j.key = some j' ∧ ∀ o b, o < n → box o = some b →
            ∃ ad len, Moving t j' false ad len [] [] (.data (keyOf s.eng.stamp + ad)) ∧
              ad ≤ b.at (un o) ∧ b.at (un o) < ad + len) ∧
          OtherPl g s t ∧ OtherJobs j.key s t ∧ OtherHr (g / 8) s t ∧ SameBytes s t ∧ SameOutside s t))) ∧
    (opOf i = 0x02 → j.stage = .done →
      let m := operandLen space (shapeOf (w3Of i))
      scoreboard s.eng p j [taOf i] [] trans = true → storePending s.eng j space a m = false →
      exec (.tst g) s =
        .next (issued s g i
          ⟨0, [taOf i], [], trans, space, a, a + m, false,
            .store space a (tstImage i j.desc.seed p.ctx.n.toNat (operand s g (taOf i))),
            if trans then tstMid i (operand s g (taOf i)) else [], false, Ctx.reset⟩ after)))

/-- TPERM by the class of its selector: a generator route applies at once; a mapped route found in the cache is
used and counted as a hit; one that is not is built from its map, read from the bank or leaf store, and counted as a
miss; a MAP selector is on the binding list from then on; a cached identifier without a binding is a ROUTE_FAULT (R92,
R94, R95, R97, R99-R103, R146). A built route is installed in the cache with its switch settings and serves the
instruction that waits for it (R85, R97, R100). The model's choices: the instruction takes its source rows as it issues
(log 12), the order in which they pass the reuse latches (log 73), and that an instruction the scoreboard holds has no
route decoded (log 69). -/
def Obligations.RoutesAreFoundAndBuilt : Prop :=
  (∀ (s : State) (g : Nat) (j : Job) (i : Insn), MayIssue s g j i → opOf i = 0x03 → shapeFault i = false →
     j.boxes = [] → j.staged = false → Quiet s (g / 8) →
     let p := s.eng.pl.look g
     let sel := p.ctx.a.look (axOf i)
     let free := scoreboard s.eng p j [taOf i] [tdOf i] (taOf i == tdOf i) = true
     let src := operand s g (taOf i)
     let flight (d : Deliver) : Flight :=
       ⟨0, [taOf i], [tdOf i], taOf i == tdOf i, 9, 0, 0, false, d, [], false, Ctx.reset⟩
     (selMapped sel = false → free →
       exec (.tperm g) s =
         .next (issued s g i (flight (.reg (tdOf i) (w3Of i) (tpermImage i (genRow sel) src))) id)) ∧
     (∀ r b, selMapped sel = true → bindingFor p.ctx sel = some b → free →
       cacheFind (cacheSets s.env.cfg) p.routes (selId sel) = some r →
       Reaches (.tperm g) s (fun t =>
         (t.eng.pl.look g).flights =
           p.flights ++ [{ flight (.reg (tdOf i) (w3Of i)
             (tpermImage i (fun _ => passRow sel r.settings) src)) with id := s.eng.stamp, ckpt := p.ctx }] ∧
         (t.eng.pl.look g).ctx = { permCtx sel p.ctx with pc := p.ctx.pc + 16 } ∧
         (selClass sel = 7 → bindingOf sel ∈ (t.eng.pl.look g).ctx.binds) ∧
         (t.eng.pl.look g).routes.head? = some r ∧
         (t.eng.hr.look (g / 8)).cnt.rcHit = satInc (s.eng.hr.look (g / 8)).cnt.rcHit 1 ∧
         OtherPl g s t ∧ OtherHr (g / 8) s t ∧ t.eng.jobs = s.eng.jobs ∧ t.eng.mem = s.eng.mem ∧ SameOutside s t)) ∧
     (¬free → Idles (.tperm g) s) ∧
     (selMapped sel = true → bindingFor p.ctx sel = none → free → j.secure = false →
       Reaches (.tperm g) s (fun t =>
         StatusAt t j.key .routeFault ∧ (t.eng.pl.look g).ctx = p.ctx ∧ (t.eng.pl.look g).tile = p.tile)) ∧
     (∀ b, selMapped sel = true → bindingFor p.ctx sel = some b → free →
       let m := if b.space = 1 then .leaf g else .bank (g / 8)
       MemServes s j.secure m → cacheFind (cacheSets s.env.cfg) p.routes (selId sel) = none → p.build = none →
       storePending s.eng j (if b.space = 1 then 2 else 1) (mapStart b) (2 * 2 ^ unitBits b.grain) = false →
       Reaches (.tperm g) s (fun t =>
         (t.eng.pl.look g).build = some ⟨b.id, b.grain,
           normalizeMap (mapEntries b.grain (fun k => s.eng.mem.byte m (mapStart b + k))), none⟩ ∧
         (t.eng.pl.look g).ctx = { permCtx sel p.ctx with pc := p.ctx.pc + 16 } ∧
         (selClass sel = 7 → bindingOf sel ∈ (t.eng.pl.look g).ctx.binds) ∧
         (∃ f, (t.eng.pl.look g).flights = p.flights ++ [f] ∧ f.writes = [tdOf i] ∧
           f.deliver = .perm i sel b.id ((upTo (512 * (shapeOf (w3Of i)).foot)).map src)) ∧
         (t.eng.hr.look (g / 8)).cnt.rcMiss = satInc (s.eng.hr.look (g / 8)).cnt.rcMiss 1 ∧
         OtherPl g s t ∧ OtherHr (g / 8) s t ∧ t.eng.jobs = s.eng.jobs ∧ t.eng.mem = s.eng.mem ∧ SameOutside s t))) ∧
  (∀ (s : State) (g : Nat) (b : Build) (j : Job), g < 96 → (s.eng.pl.look g).build = some b →
     s.eng.curJob g = some j → j.desc.prog = true → b.pend = none →
     Reaches (.routeBuildDone g) s (fun t =>
       (t.eng.pl.look g).build = none ∧
       (∃ r ∈ (t.eng.pl.look g).routes, r.id = b.id ∧ r.grain = b.grain ∧ r.src = b.src ∧
         r.settings = routeSettings b.grain b.src) ∧
       (∀ f ∈ (s.eng.pl.look g).flights, ∀ i sel rows, f.deliver = .perm i sel b.id rows →
         { f with deliver := (.reg (tdOf i) (w3Of i)
             (tpermImage i (fun _ => passRow sel (routeSettings b.grain b.src)) (byteAt rows))) } ∈ (t.eng.pl.look g).flights) ∧
       (t.eng.pl.look g).ctx = (s.eng.pl.look g).ctx ∧ (t.eng.pl.look g).tile = (s.eng.pl.look g).tile ∧ OnlyPl g s t))

/-- A register instruction retires: TD holds its image and its header FOOT, INUSE and SHAPE, every other tile register
is as it was, the register's reuse latches are gone, and it leaves the instructions in flight (R114, R120, R122, R123).
A load whose data have come retires the same way with the image they give, and waits until then; a poisoned unit sets
POISONED (R143, R144). A store to a memory of the block retires: the bytes of its image stand at its address, modulo the
memory, every other byte of every memory is as it was, and the refusals at the other port are counted (R35, R141, R142,
R188, R196; how many: log 14); one to host memory goes to the mover byte for byte (R141). The results stand at the
retirement (log 12), and the new header also in the checkpoints of what is still in flight (log 71). The last retirement
of a yielding job is QuantumYields'. -/
def Obligations.RetirementWritesItsResult : Prop :=
  let wrote (s t : State) (g id t' : Nat) (f : Flight) (sh : W32) (img : List Byte) (j : Job) : Prop :=
    (∀ o, o < img.length → Mem.byte (t.eng.pl.look g).tile (tileKey t' o) = byteAt img o) ∧
    (∀ u o, u < 8 → u ≠ t' → o < 8192 →
      Mem.byte (t.eng.pl.look g).tile (tileKey u o) = Mem.byte (s.eng.pl.look g).tile (tileKey u o)) ∧
    (t.eng.pl.look g).ctx.hdr.look t' = ⟨(shapeOf sh).foot, true, sh &&& 0xFFFFFF80#32⟩ ∧
    (∀ u, u ≠ t' → (t.eng.pl.look g).ctx.hdr.look u = (s.eng.pl.look g).ctx.hdr.look u) ∧
    (t.eng.pl.look g).latches = (s.eng.pl.look g).latches.drop t' ∧
    (t.eng.pl.look g).flights = ((s.eng.pl.look g).flights.filter (fun f => f.id != id)).map (fun f =>
      { f with ckpt := { f.ckpt with hdr := f.ckpt.hdr.put t' ⟨(shapeOf sh).foot, true, sh &&& 0xFFFFFF80#32⟩ } }) ∧
    (t.eng.pl.look g).ctx.pc = (s.eng.pl.look g).ctx.pc ∧ (t.eng.pl.look g).ctx.a = (s.eng.pl.look g).ctx.a ∧
    (∃ j', t.eng.jobAt j.key = some j' ∧ j'.oob = (j.oob || f.oob)) ∧
    OtherPl g s t ∧ OtherJobs j.key s t ∧ SameBytes s t ∧ t.eng.hr = s.eng.hr ∧ SameOutside s t
  (∀ (s : State) (g id n t' : Nat) (j : Job) (f : Flight) (sh : W32) (img : List Byte), g < 96 →
     s.eng.curJob g = some j → (s.eng.pl.look g).flights.find? (fun f => f.id == id) = some f →
     (s.eng.pl.look g).wait ≠ .yielding → f.deliver = .reg t' sh img → t' < 8 → img.length ≤ 8192 →
     f.mid.length ≤ 8192 → j.status = none → Mem.wf (s.eng.pl.look g).tile →
     Reaches (.instructionRetire g id n) s (fun t => wrote s t g id t' f sh img j)) ∧
  (∀ (s : State) (g id n a key : Nat) (j : Job) (f : Flight) (i : Insn), g < 96 →
     s.eng.curJob g = some j → (s.eng.pl.look g).flights.find? (fun f => f.id == id) = some f →
     (s.eng.pl.look g).wait ≠ .yielding → f.deliver = .load i a key → j.status = none → opOf i = 0x01 →
     shapeFault i = false → f.shadow = decide (subOf i 3 1 = 1) → f.oob = false → Mem.wf (s.eng.pl.look g).tile →
     let img := tldImage i j.desc.seed f.ckpt.n.toNat j.desc.src.fill (operandByte j g (subOf i 0 2) a key)
       (operandLost j g (subOf i 0 2) a key)
     (keyPending s.eng j key = false →
       Reaches (.instructionRetire g id n) s (fun t =>
         wrote s t g id (tdOf i) f (w3Of i) img j ∧
         ∃ j', t.eng.jobAt j.key = some j' ∧
           j'.poisoned = (j.poisoned || j.rdPsn.any (fun x => x / 2 ^ 53 == key / 2 ^ 53)))) ∧
     (keyPending s.eng j key = true → Idles (.instructionRetire g id n) s)) ∧
  (∀ (s : State) (g id n sp a : Nat) (j : Job) (f : Flight) (img : List Byte), g < 96 →
     s.eng.curJob g = some j → (s.eng.pl.look g).flights.find? (fun f => f.id == id) = some f →
     (s.eng.pl.look g).wait ≠ .yielding → f.deliver = .store sp a img → img.length ≤ spaceSize sp →
     f.mid.length ≤ 8192 → j.status = none →
     MemServes s j.secure (instOf g sp) → MemInv s →
     Reaches (.instructionRetire g id n) s (fun t =>
       let i := instOf g sp
       (∀ k, k < img.length → (∀ p, i = .leaf p → (a + k) % 2 ^ 19 < leafEnd) →
         t.eng.mem.byte i (a + k) = byteAt img k) ∧
       (∀ i' b, (∀ k, k < img.length → ¬(i' = i ∧ b % spaceSize sp = (a + k) % spaceSize sp)) →
         t.eng.mem.byte i' b = s.eng.mem.byte i' b) ∧
       (∀ u o, u < 8 → o < 8192 →
         Mem.byte (t.eng.pl.look g).tile (tileKey u o) = Mem.byte (s.eng.pl.look g).tile (tileKey u o)) ∧
       (t.eng.pl.look g).flights = (s.eng.pl.look g).flights.filter (fun f => f.id != id) ∧
       (t.eng.pl.look g).ctx = (s.eng.pl.look g).ctx ∧
       (t.eng.hr.look (g / 8)).cnt =
         (let cnt := (s.eng.hr.look (g / 8)).cnt
          match sp with
          | 1 => { cnt with hbCollide := satInc cnt.hbCollide n }
          | 2 => { cnt with lsCollide := satInc cnt.lsCollide n }
          | _ => cnt) ∧
       OtherPl g s t ∧ (sp ≠ 3 → OtherJobs j.key s t) ∧ OtherHr (g / 8) s t ∧ SameOutside s t)) ∧
  (∀ (s : State) (g id n a : Nat) (j : Job) (f : Flight) (img : List Byte), g < 96 →
     s.eng.curJob g = some j → (s.eng.pl.look g).flights.find? (fun f => f.id == id) = some f →
     f.deliver = .store 0 a img → img.length ≤ 2 ^ 52 → j.status = none → j.undef = false → Quiet s (g / 8) →
     (s.eng.pl.look g).wait ≠ .ending → (s.eng.pl.look g).wait ≠ .yielding → (∀ b, dtFind s.env b = none) →
     Reaches (.instructionRetire g id n) s (fun t =>
       (∃ j', t.eng.jobAt j.key = some j' ∧
         ∀ k, k < img.length → Stores t j' ((a + k) % 2 ^ 52) (byteAt img k)) ∧
       (t.eng.pl.look g).flights = (s.eng.pl.look g).flights.filter (fun f => f.id != id) ∧
       (t.eng.pl.look g).ctx = (s.eng.pl.look g).ctx ∧
       OtherPl g s t ∧ OtherJobs j.key s t ∧ OtherHr (g / 8) s t ∧ SameBytes s t ∧ SameOutside s t))

/-- The scalar forms of TMOV: a load, an add and a counter load write their one register, the header write its one
header with FOOT never raised and the register's reuse latches dropped, and the forms without effect nothing; PC moves
on (R114, R120, R127, R134). -/
def Obligations.ScalarMovesWriteOneRegister : Prop :=
  ∀ (s : State) (g : Nat) (j : Job) (i : Insn), MayIssue s g j i → opOf i = 0x0B →
    let mode := subOf i 0 3
    let next (f : Ctx → Ctx) : State := s.onEng (s.eng.onPl g (fun p => stepped p f))
    let retitled (f : Ctx → Ctx) : State :=
      s.onEng (s.eng.onPl g (fun p => stepped { p with latches := p.latches.drop (tdOf i) } f))
    (mode = 2 → exec (.tmovALoad g) s = .next (next (fun c => { c with a := c.a.put (axOf i) (immOf i) }))) ∧
    (mode = 3 → exec (.tmovAAdd g) s =
      .next (next (fun c => { c with a := c.a.put (axOf i) (c.a.look (subOf i 4 4) + immOf i) }))) ∧
    (mode = 4 → exec (.tmovCLoad g) s = .next (next (fun c => { c with c := c.c.put (subOf i 9 3) (w1Of i) }))) ∧
    (5 ≤ mode → exec (.tmovNop g) s = .next (next id)) ∧
    (mode = 1 → subOf i 3 1 = 0 →
      (∀ f ∈ (s.eng.pl.look g).flights, tdOf i ∉ f.reads ∧ tdOf i ∉ f.writes) →
      exec (.tmovHeaderWrite g) s = .next (retitled (fun c => { c with hdr := c.hdr.put (tdOf i) ⟨0, false, 0⟩ }))) ∧
    (mode = 1 → subOf i 3 1 = 1 → shapeFault i = false →
      (∀ f ∈ (s.eng.pl.look g).flights, tdOf i ∉ f.reads ∧ tdOf i ∉ f.writes) →
      exec (.tmovHeaderWrite g) s = .next (retitled (fun c =>
        { c with hdr := (c.hdr.put (tdOf i)
            ⟨min (c.hdr.look (tdOf i)).foot (shapeOf (w3Of i)).foot, true, w3Of i &&& 0xFFFFFF80#32⟩) })))

/-- LOOP counts down and branches unless the result is 0, a counter at 0 going to 0xFFFF_FFFF; BR branches under its
condition and changes no register; a branch goes to the instruction's own address plus 16 x OFFSET modulo 2^20
(R127, R135, R136). -/
def Obligations.LoopCountsAndBranches : Prop :=
  ∀ (s : State) (g : Nat) (j : Job) (i : Insn), MayIssue s g j i →
    let p := s.eng.pl.look g
    let to_ := p.ctx.pc + BitVec.ofInt 20 (16 * (w1Of i).toInt)
    let n := p.ctx.c.look (subOf i 9 3)
    let taken := subOf i 0 2 = 0 ∨ (subOf i 0 2 = 1 ∧ n = 0) ∨ (subOf i 0 2 = 2 ∧ n ≠ 0)
    (opOf i = 0x11 →
      Reaches (.loop g) s (fun t =>
        (t.eng.pl.look g).ctx =
          { p.ctx with c := p.ctx.c.put (subOf i 9 3) (n - 1), pc := if n - 1 = 0 then p.ctx.pc + 16 else to_ } ∧
        (t.eng.pl.look g).tile = p.tile ∧ (t.eng.pl.look g).flights = p.flights ∧ OnlyPl g s t)) ∧
    (opOf i = 0x12 →
      Reaches (.br g) s (fun t =>
        (taken → (t.eng.pl.look g).ctx = { p.ctx with pc := to_ }) ∧
        (¬taken → (t.eng.pl.look g).ctx = { p.ctx with pc := p.ctx.pc + 16 }) ∧
        (t.eng.pl.look g).tile = p.tile ∧ (t.eng.pl.look g).flights = p.flights ∧ OnlyPl g s t))

/-- PWAIT completes at once where phase dispatch is not in effect, the domain is not enabled or its phase has reached
the target; otherwise it waits, and it completes when the phase of a later cycle has reached the target (R137,
R282). -/
def Obligations.PwaitWaitsForThePhase : Prop :=
  (∀ (s : State) (g : Nat) (j : Job) (i : Insn), MayIssue s g j i → opOf i = 0x10 →
    comparatorTaken s.eng (g / 8) = false →
    let m := s.eng.dom.look (subOf i 0 4)
    let target := BitVec.ofNat 24 (bits i.toNat 32 24)
    let met := s.env.phaseOn = false ∨ m.st = .disabled ∨ target.toNat ≤ m.phase.toNat
    (met → exec (.pwait g) s = .next (s.onEng (s.eng.onPl g (fun p => stepped p id)))) ∧
    (¬met → exec (.pwait g) s =
      .next (s.onEng (s.eng.onPl g (fun p => { refill p with wait := .pwait (subOf i 0 4) target }))))) ∧
  (∀ (s : State) (g d : Nat) (target : BitVec 24) (ph : Phases), g < 96 → d < 16 → s.env.cfg.phase = true →
    (s.eng.pl.look g).wait = .pwait d target → (s.eng.dom.look d).st = .running →
    target.toNat ≤ (BitVec.ofNat 24 (((s.eng.dom.look d).k * 2 ^ 24 + (ph.look (domSrc s.env d)).toNat) /
      domDiv s.env d)).toNat →
    Reaches (.pwaitComplete g ph) s (fun t =>
      (t.eng.pl.look g).wait = .none ∧ (t.eng.pl.look g).ctx.pc = (s.eng.pl.look g).ctx.pc + 16 ∧
      (t.eng.pl.look g).ctx.a = (s.eng.pl.look g).ctx.a ∧ OtherPl g s t ∧ t.eng.jobs = s.eng.jobs ∧
      t.eng.hr = s.eng.hr ∧ t.eng.hed = s.eng.hed ∧ SameBytes s t ∧ SameOutside s t))

/-- FENCE completes, and END ends its job, once every earlier instruction has retired and every memory write of the
job has taken place; until then both wait. The ended job keeps its slot, its pleacher is idle, and its record waits
for its turn (R20, R139, R239, R255). -/
def Obligations.FenceAndEndWait : Prop :=
  ∀ (s : State) (g : Nat) (j : Job) (i : Insn), MayIssue s g j i →
    let done := (s.eng.pl.look g).flights = [] ∧ writesPending s.eng j = false
    (opOf i = 0x13 → done → exec (.fenceInstr g) s = .next (s.onEng (s.eng.onPl g (fun p => stepped p id)))) ∧
    (opOf i = 0x13 → ¬done → Idles (.fenceInstr g) s) ∧
    (opOf i = 0x00 ∨ opListed (opOf i) = false → done → j.undef = false → j.secure = false →
      Reaches (.endJob g) s (fun t =>
        (∃ j', t.eng.jobAt j.key = some j' ∧ j'.st = .ended ∧ j'.status = none) ∧
        (t.eng.pl.look g).phase = .idle ∧
        (∃ r, t.eng.hed.ends = s.eng.hed.ends ++ [r] ∧ r.ring = j.ring ∧ r.seq = j.seq ∧ r.key = some j.key ∧
          r.tag = j.desc.tag) ∧
        OtherPl g s t ∧ OtherJobs j.key s t ∧ SameBytes s t ∧ t.eng.hr = s.eng.hr ∧ SameOutside s t)) ∧
    (opOf i = 0x00 ∨ opListed (opOf i) = false → ¬done → Idles (.endJob g) s)

/-- SYNC, once every earlier memory write of its job has taken place, and its further polls read the half word: until
it meets the condition the instruction waits and polls; once it does, the instruction completes, or, with ACT 1 or 2,
makes a second access that sets or clears the bits of PATTERN in the word as it then stands, no other byte of any memory
changing. The two are not atomic together. An action that met a write at the other port counts one refusal (R128, R138,
R195, R196; whether it met one: log 14). Where the half word lies in a staged box the poll waits for the copy and reads
it there, on the host by a read of the mover (R180, R182; log 37). -/
def Obligations.SyncActsWhenMet : Prop :=
  let polled (c : Instr) (s s' : State) (g : Nat) (i : Insn) (half : W32) : Prop :=
    let met := half &&& w1Of i = w2Of i &&& w1Of i
    let acts := subOf i 1 2 = 1 ∨ subOf i 1 2 = 2
    (¬met → exec c s = .next (s'.onEng (s'.eng.onPl g (fun p => { refill p with wait := .sync })))) ∧
    (met → acts → exec c s = .next (s'.onEng (s'.eng.onPl g (fun p => { refill p with wait := .acting })))) ∧
    (met → ¬acts → exec c s = .next (s'.onEng (s'.eng.onPl g (fun p => stepped { p with wait := .none } id))))
  let unstaged (j : Job) (g a : Nat) : Prop :=
    ∀ k, k < 4 → j.stagedAt (.bank (g / 8)) (j.unOf (.bank (g / 8)) ((a + k) % 2 ^ 20)) = none
  let onHost (j : Job) (g a : Nat) : Prop :=
    ∀ k, k < 4 → ∃ b, j.stagedAt (.bank (g / 8)) (j.unOf (.bank (g / 8)) ((a + k) % 2 ^ 20)) = some b ∧ b.privet = false
  let place (j : Job) (g a k : Nat) : Nat :=
    (j.locate (.bank (g / 8)) (j.unOf (.bank (g / 8)) ((a + k) % 2 ^ 20)) ((a + k) % 2 ^ 20)).2
  let polls (c : Instr) (s : State) (g : Nat) (j : Job) (i : Insn) : Prop :=
    let a := syncAt (s.eng.pl.look g).ctx i
    (unstaged j g a → polled c s s g i (s.eng.mem.word (.bank (g / 8)) a)) ∧
    (onHost j g a → Quiet s (g / 8) → (∀ x, dtFind s.env x = none) → j.undef = false →
      (s.eng.jobs.map Job.key).Nodup →
      Reaches c s (fun t => ∃ o, t.eng.jobAt j.key = some o ∧ (t.eng.pl.look g).wait = .polling (keyOf s.eng.stamp) ∧
        (t.eng.pl.look g).ctx = (s.eng.pl.look g).ctx ∧ SameBytes s t ∧ OtherPl g s t ∧ OtherJobs j.key s t ∧
        SameOutside s t ∧
        ∀ k, k < 4 → ∃ ad len, Moving t o false ad len [] [] (.data (keyOf s.eng.stamp + ad)) ∧
          ad ≤ place j g a k ∧ place j g a k < ad + len))
  ∀ (s : State) (g : Nat) (j : Job) (i : Insn), MemInv s → BankServes s (g / 8) → opOf i = 0x14 →
    (MayIssue s g j i → writesPending s.eng j = false →
      j.staged = false ∨ j.stage = .done ∨ unstaged j g (syncAt (s.eng.pl.look g).ctx i) →
      ∀ collide, polls (.sync g collide) s g j i) ∧
    (MayIssue s g j i → j.staged = true → j.stage ≠ .done → onHost j g (syncAt (s.eng.pl.look g).ctx i) →
      ∀ collide, Idles (.sync g collide) s) ∧
    (MayIssue s g j i → writesPending s.eng j = true → ∀ collide, Idles (.sync g collide) s) ∧
    (g < 96 → s.eng.curJob g = some j → (s.eng.pl.look g).insn = some i →
      ((s.eng.pl.look g).wait = .sync → ∀ collide, polls (.syncPoll g collide) s g j i) ∧
      (∀ key collide, (s.eng.pl.look g).wait = .polling key →
        (keyPending s.eng j key = true → Idles (.syncPoll g collide) s) ∧
        (keyPending s.eng j key = false → onHost j g (syncAt (s.eng.pl.look g).ctx i) →
          (∀ k, k < 4 → spotLost j key
            (.bank (g / 8), j.unOf (.bank (g / 8)) ((syncAt (s.eng.pl.look g).ctx i + k) % 2 ^ 20),
              (syncAt (s.eng.pl.look g).ctx i + k) % 2 ^ 20) = false) →
          ∃ s', s'.eng.pl = s.eng.pl ∧ s'.eng.mem = s.eng.mem ∧ s'.eng.hed = s.eng.hed ∧ s'.eng.hr = s.eng.hr ∧
            SameOutside s s' ∧
            polled (.syncPoll g collide) s s' g i
              (BitVec.ofNat 32 (leNat ((upTo 4).map (fun k =>
                Mem.byte j.rd (key + place j g (syncAt (s.eng.pl.look g).ctx i) k))))))) ∧
      ((s.eng.pl.look g).wait = .acting → ∀ collide,
        Reaches (.syncPoll g collide) s (fun t =>
          let h := g / 8
          let a := syncAt (s.eng.pl.look g).ctx i
          let half := s.eng.mem.word (.bank h) a
          let cnt := (s.eng.hr.look h).cnt
          t.eng.mem.word (.bank h) a = (if subOf i 1 2 = 1 then half ||| w3Of i else half &&& ~~~(w3Of i)) ∧
          (∀ x b, (∀ k, k < 4 → ¬(x = .bank h ∧ b % 2 ^ 20 = (a + k) % 2 ^ 20)) →
            t.eng.mem.byte x b = s.eng.mem.byte x b) ∧
          (t.eng.pl.look g).wait = .none ∧
          (t.eng.pl.look g).ctx = { (s.eng.pl.look g).ctx with pc := (s.eng.pl.look g).ctx.pc + 16 } ∧
          (t.eng.hr.look h).cnt = (if collide then { cnt with hbCollide := satInc cnt.hbCollide 1 } else cnt) ∧
          OtherPl g s t ∧ OtherHr h s t ∧ t.eng.jobs = s.eng.jobs ∧ SameOutside s t)))

/-! ### The fabric paths -/

/-- Read beats on a hedgerow's port: a beat without a transaction is counted and raises kz_err; a beat of a read
brings its bytes to the job that asked for them, and the last one ends the transaction; a beat with an error gives
the job FABRIC_ERROR (R53, R238, R305, R306, R316; which statuses arise in one cycle: log 77). With the last beat of its
reads a built-in job writes: every byte that holds an element it writes gets the bits of the element, merged with the
byte's others, at once in a memory of the block, where the job ends, and by a write in host memory; no other byte
changes (R21, R43, R44, R161, R162, R168, R239). With the last unit of its staging copy the units are written to the
region, each with its poison (R181, R182, R320). The last beat for a yielding job's load lets the job be suspended
(R259). That FABRIC_ERROR arises at the first beat in error is log 58, and what poisons a merged byte is log 25. -/
def Obligations.ReadBeatsAreTaken : Prop :=
  ∀ (s : State) (h tag : Nat) (data : BitVec 1024) (psn code : BitVec 2) (last tie : Bool), s.eng.phase ≠ .reset →
    h < s.env.cfg.hedgerows →
    let lane (k : Nat) : Byte := BitVec.ofNat 8 (bits data.toNat (8 * k) 8)
    let brought (x : Xact) (key : Nat) (m m' : Mem) : Prop :=
      (∀ k, k < 128 → x.addr ≤ 128 * (x.addr / 128 + x.beat) + k → 128 * (x.addr / 128 + x.beat) + k < x.addr + x.len →
        Mem.byte m' (key + (128 * (x.addr / 128 + x.beat) + k - x.addr)) = lane k) ∧
      (∀ a, (∀ k, k < 128 → x.addr ≤ 128 * (x.addr / 128 + x.beat) + k →
          128 * (x.addr / 128 + x.beat) + k < x.addr + x.len →
          a ≠ key + (128 * (x.addr / 128 + x.beat) + k - x.addr)) →
        Mem.byte m' a = Mem.byte m a)
    ((∀ x ∈ (s.eng.hr.look h).xacts, x.tag ≠ tag) →
      Reaches (.fabricReadResponse h tag data psn code ⟨last, tie⟩) s (fun t =>
        (t.eng.hr.look h).cnt.fabErr = satInc (s.eng.hr.look h).cnt.fabErr 1 ∧
        (t.eng.hr.look h).xacts = (s.eng.hr.look h).xacts ∧
        wbit t.eng.errStatus 3 = true ∧ wbit t.eng.errHr h = true ∧ OtherHr h s t ∧
        t = s.onEng
          { s.eng with hr := t.eng.hr, errStatus := t.eng.errStatus, errHr := t.eng.errHr, tie := false })) ∧
    (∀ (x : Xact) (j : Job), (s.eng.hr.look h).xacts.find? (fun x => x.tag == tag) = some x →
      x.write = false → x.timedOut = false → x.live = true → x.erred = false →
      Mem.wf j.rd → s.eng.jobAt x.owner = some j → j.admitSeq = x.adm → j.st ≠ .ended →
      (∀ key, x.purpose = .data key → code = 0 → psn = 0 → PlannerOnly s h → NoYields s h →
        Reaches (.fabricReadResponse h tag data psn code ⟨last, tie⟩) s (fun t =>
          (∃ j', t.eng.jobAt x.owner = some j' ∧ j' = { j with rd := j'.rd } ∧ brought x key j.rd j'.rd) ∧
          (last = true → ∀ y ∈ (t.eng.hr.look h).xacts, y.tag ≠ tag) ∧
          OtherJobs x.owner s t ∧ OtherHr h s t ∧ t.eng.pl = s.eng.pl ∧ t.eng.hed = s.eng.hed ∧
          t.eng.errStatus = s.eng.errStatus ∧ SameBytes s t ∧ SameOutside s t)) ∧
      (code ≠ 0 → StillBut s h x.owner →
        Reaches (.fabricReadResponse h tag data psn code ⟨last, tie⟩) s (fun t =>
          StatusAt t x.owner (statusAfter s tie j .fabricError) ∧
          (t.eng.hr.look h).cnt.fabErr = satInc (s.eng.hr.look h).cnt.fabErr 1 ∧
          wbit t.eng.errStatus 2 = true ∧ wbit t.eng.errHr h = true ∧
          t.eng.dom = s.eng.dom ∧ t.eng.iwp = s.eng.iwp ∧ SameOutside s t)) ∧
      (∀ key a ky i f, x.purpose = .data key → code = 0 → psn = 0 → last = true → StillBut s h x.owner →
        j.g / 8 = h → j.st = .suspended → j.status = none → j.desc.prog = true → j.secure = false → j.xq = [] →
        (∀ y ∈ (s.eng.hr.look h).xacts, y.tag ≠ tag → y.owner = j.key → y.live = true → y.write = true) →
        (s.eng.pl.look j.g).phase = .running → (s.eng.pl.look j.g).cur = j.slot →
        (s.eng.pl.look j.g).wait = .yielding → (s.eng.pl.look j.g).flights = [f] → f.deliver = .load i a ky →
        Reaches (.fabricReadResponse h tag data psn code ⟨last, tie⟩) s (fun t =>
          (∃ o, t.eng.jobAt x.owner = some o ∧ o.st = .suspended ∧ o.status = none ∧ o.savedOk = true) ∧
          SameOutside s t)) ∧
      (code = 0 → psn = 0 → last = true → StillBut s h x.owner → NoYields s h → MemInv s → j.g / 8 = h →
        j.status = none → j.xq = [] → writesOut s.eng j.key = false → j.undef = false →
        (∀ y ∈ (s.eng.hr.look h).xacts, y.tag ≠ tag → y.owner = j.key → y.live = true → y.write = true) →
        (∀ key, x.purpose = .data key → j.desc.prog = false → j.st = .running → j.staged = false →
          j.stage ≠ .copying → j.bphase = .source → (s.eng.pl.look j.g).phase = .running →
          (s.eng.pl.look j.g).cur = j.slot →
          ∃ rd, brought x key j.rd rd ∧
            let k := { j with rd := rd }
            let i := instOf j.g j.desc.dst.space
            let out := j.desc.patch (builtinByte j.srcAt k j.desc.src.space) (builtinLost k j.desc.src.space) k.items
            (MemServes s j.secure i →
              Reaches (.fabricReadResponse h tag data psn code ⟨last, tie⟩) s (fun t =>
                (∀ x ∈ out, (∀ p, i = .leaf p → x.1 < leafEnd) →
                  t.eng.mem.byte i x.1 = patchByte x.2.1 x.2.2 (s.eng.mem.byte i x.1)) ∧
                (∀ i' a, i' ≠ i ∨ (∀ x ∈ out, placeKey i a ≠ placeKey i x.1) →
                  t.eng.mem.byte i' a = s.eng.mem.byte i' a) ∧
                (∃ o, t.eng.jobAt j.key = some o ∧ o.st = .ended ∧ o.status = none ∧
                  o.poisoned = (j.poisoned || k.sawPoison)) ∧
                (t.eng.pl.look j.g).phase = .idle ∧
                (∃ r, t.eng.hed = { s.eng.hed with ends := s.eng.hed.ends ++ [r] } ∧ r.key = some j.key) ∧
                OtherPl j.g s t ∧ OtherJobs j.key s t ∧ OtherHr h s t ∧ SameOutside s t)) ∧
            (i = .host → out ≠ [] → (∀ a, dtFind s.env a = none) →
              Reaches (.fabricReadResponse h tag data psn code ⟨last, tie⟩) s (fun t =>
                (∃ o, t.eng.jobAt j.key = some o ∧ o.st = .running ∧ o.status = none ∧
                  o.poisoned = (j.poisoned || k.sawPoison) ∧
                  ∀ x ∈ out, Stores t o x.1 (patchByte x.2.1 x.2.2 (Mem.byte rd x.1))) ∧
                t.eng.pl = s.eng.pl ∧ t.eng.hed = s.eng.hed ∧ SameBytes s t ∧ OtherJobs j.key s t ∧
                OtherHr h s t ∧ SameOutside s t))) ∧
        (∀ n, x.purpose = .stageRead n → j.desc.prog = true → j.stage = .copying → (∀ a, dtFind s.env a = none) →
          (∀ b ∈ j.boxes, b.privet = false ∧ b.off % 64 = 0 ∧ b.base % 64 = 0) → j.copy.remote = [] → Mem.wf j.copy.rd →
          ∃ rd, brought x (64 * n) j.copy.rd rd ∧
            Reaches (.fabricReadResponse h tag data psn code ⟨last, tie⟩) s (fun t =>
              (∃ o, t.eng.jobAt j.key = some o ∧ o.stage = .writing ∧ o.status = none ∧ o.boxes = j.boxes ∧
                ∀ y ∈ copyList j.boxes, (∀ z ∈ copyList j.boxes, y.2 < z.2 → z.1.1.at z.1.2 ≠ y.1.1.at y.1.2) →
                  Moving t o true (y.1.1.at y.1.2) 64 ((Mem.bytes rd (64 * y.2) 64).map some)
                    [j.copy.psn.contains y.2] .stageWrite) ∧
              t.eng.pl = s.eng.pl ∧ t.eng.hed = s.eng.hed ∧ SameBytes s t ∧ OtherJobs j.key s t ∧ OtherHr h s t ∧
              SameOutside s t))))

/-- Write responses: a write of a job takes place with its response, the last one of a built-in job ends it, and an
error gives the job its status, WINDOW_CLOSED for a refusing node; the response to a record's write raises the ring's
event or is counted as an error; the last local write of an inbound transaction sends its response (R21, R239-R241,
R292, R296, R309, R315-R316; which statuses arise in one cycle: log 77). A response for which nothing is outstanding
on the control port or the local write path adds 1 to KZ_FAB_STRAY and raises kz_err (R306). A transaction of a job
that waits as long as its class's timeout gives the job FABRIC_TIMEOUT and keeps its tag; a class whose timeout is 0,
and every class during quiesce or training, never times out (R315-R316, R318-R319). A timeout on the control port is
counted as a failed read, which ends a descriptor's job with FABRIC_TIMEOUT, or as a failed record, whose event is
raised; one of a local write makes its transaction's response an error (R223, R241, R309). A host address resolves to
the lowest enabled tensor whose aperture holds it, its block and its offset; the job reads the block's entry of the
owner table once, keeps it among its last 16, and then accesses its own node's memory, writes to another node, and
takes the FILL for what it would read from one; in quickset mode a write to another node closes the job's window as it
would issue (R286-R291, R293). An inbound transaction counts one error, at its response (log 58), and what one read is
for KZ_DT_RMT_RD is log 79. -/
def Obligations.ResponsesAndTimeouts : Prop :=
  ((∀ (s : State) (h tag : Nat) (code : BitVec 2) (tie : Bool) (x : Xact), s.eng.phase ≠ .reset →
     h < s.env.cfg.hedgerows →
     (s.eng.hr.look h).xacts.find? (fun x => x.tag == tag) = some x → x.write = true → x.timedOut = false →
     (code = 0 → PlannerOnly s h → (∀ j, s.eng.jobAt x.owner = some j → j.status = none) →
       exec (.fabricWriteResponse (.hfp h) tag ⟨code, tie⟩) s =
         .next (s.onEng { s.eng.onHr h (fun r => { r with xacts := r.xacts.filter (fun x => x.tag != tag) }) with
           tie := false })) ∧
     (∀ j, code = 0 → s.eng.jobAt x.owner = some j → j.g / 8 = h → StillBut s h j.key → j.status = none →
       j.desc.prog = false → j.st = .running → j.stage ≠ .copying → (j.staged = true → j.stage = .done) →
       j.bphase = .writes → j.xq = [] → j.undef = false → readsOut s.eng j = false →
       (∀ y ∈ (s.eng.hr.look h).xacts, y.tag ≠ tag → y.write = true → y.owner = j.key → y.timedOut = true) →
       (s.eng.pl.look j.g).phase = .running → (s.eng.pl.look j.g).cur = j.slot →
       Reaches (.fabricWriteResponse (.hfp h) tag ⟨code, tie⟩) s (fun t =>
         (∃ o, t.eng.jobAt j.key = some o ∧ o.st = .ended ∧ o.status = none) ∧ (t.eng.pl.look j.g).phase = .idle ∧
         (∃ r, t.eng.hed = { s.eng.hed with ends := s.eng.hed.ends ++ [r] } ∧ r.ring = j.ring ∧ r.seq = j.seq ∧
           r.key = some j.key ∧ r.tag = j.desc.tag) ∧
         OtherPl j.g s t ∧ OtherJobs j.key s t ∧ OtherHr h s t ∧ SameBytes s t ∧ SameOutside s t)) ∧
     (∀ j, code ≠ 0 → StillBut s h x.owner → s.eng.jobAt x.owner = some j → j.admitSeq = x.adm → j.st ≠ .ended →
       Reaches (.fabricWriteResponse (.hfp h) tag ⟨code, tie⟩) s (fun t =>
         StatusAt t x.owner (statusAfter s tie j (if x.remote && code == 2 then .windowClosed else .fabricError)) ∧
         t.eng.cnt.dtRmtRefused =
           (if x.remote && code == 2 then satInc s.eng.cnt.dtRmtRefused 1 else s.eng.cnt.dtRmtRefused) ∧
         (x.remote = false ∨ code ≠ 2 → wbit t.eng.errStatus 2 = true ∧ wbit t.eng.errHr h = true) ∧
         t.eng.dom = s.eng.dom ∧ t.eng.iwp = s.eng.iwp ∧ SameOutside s t))) ∧
   (∀ (s : State) (tag n : Nat) (evt tie : Bool) (code : BitVec 2) (x : CfpX), s.eng.phase ≠ .reset →
     s.eng.hed.cfpOut.find? (fun x => x.tag == tag) = some x → x.timedOut = false → x.who = .record n evt →
     s.eng.hed.cfpWant = [] →
     Reaches (.fabricWriteResponse .cfp tag ⟨code, tie⟩) s (fun t =>
       t.eng.evts = s.eng.evts + (if evt then 1 else 0) ∧
       t.eng.cnt.cfpWrErr = (if code = 0 then s.eng.cnt.cfpWrErr else satInc s.eng.cnt.cfpWrErr 1) ∧
       (code ≠ 0 → wbit t.eng.errStatus 1 = true) ∧ (code = 0 → t.eng.errStatus = s.eng.errStatus) ∧
       t.eng.hed = { s.eng.hed with cfpOut := s.eng.hed.cfpOut.filter (fun y => y.tag != tag) } ∧
       t.eng.jobs = s.eng.jobs ∧ t.eng.mem = s.eng.mem ∧ SameOutside s t)) ∧
   (∀ (s : State) (tag : Nat) (code : BitVec 2) (tie : Bool) (x : MwX) (u : IwpTx), s.eng.phase ≠ .reset →
     s.env.cfg.iwp = true → s.eng.iwp.out.find? (fun x => x.tag == tag) = some x → x.timedOut = false →
     s.eng.iwp.txs.find? (fun t => t.num == x.num) = some u → u.left = 1 → s.eng.iwp.want = [] →
     Reaches (.fabricWriteResponse .iwp tag ⟨code, tie⟩) s (fun t =>
       t.eng.iwp.resps = s.eng.iwp.resps ++ [⟨u.src, u.id, if u.bad || code != 0 then 1 else 0, u.win⟩] ∧
       t.eng.iwp.txs = s.eng.iwp.txs.filter (fun x => x.num != u.num) ∧
       t.eng.iwp.out = s.eng.iwp.out.filter (fun y => y.tag != tag) ∧
       t.eng.iwp.opened = s.eng.iwp.opened ∧
       (u.bad = true ∨ code ≠ 0 → t.eng.cnt.iwpErr = satInc s.eng.cnt.iwpErr 1 ∧ wbit t.eng.errStatus 4 = true) ∧
       t.eng.jobs = s.eng.jobs ∧ t.eng.mem = s.eng.mem ∧ t.eng.hed = s.eng.hed ∧ SameOutside s t))) ∧
  (∀ (s : State) (h tag : Nat) (tie : Bool) (x : Xact) (j : Job),
     (s.eng.hr.look h).xacts.find? (fun x => x.tag == tag && !x.timedOut) = some x →
     s.eng.jobAt x.owner = some j → j.admitSeq = x.adm → j.st ≠ .ended → h < 12 →
     (tmoOf s.env x.sc ≠ 0 → s.eng.iface.quiesce = false → s.eng.iface.train = false → StillBut s h x.owner →
       Reaches (.fabricTimeout (.hfp h) ⟨tag, tie⟩) s (fun t =>
         StatusAt t x.owner (statusAfter s tie j .fabricTimeout) ∧
         (t.eng.hr.look h).cnt.fabTmo = satInc (s.eng.hr.look h).cnt.fabTmo 1 ∧
         (∃ y ∈ (t.eng.hr.look h).xacts, y.tag = tag ∧ y.timedOut = true) ∧
         (t.eng.hr.look h).xacts.length = (s.eng.hr.look h).xacts.length ∧
         wbit t.eng.errStatus 2 = true ∧ wbit t.eng.errHr h = true ∧
         t.eng.dom = s.eng.dom ∧ t.eng.iwp = s.eng.iwp ∧ SameOutside s t)) ∧
     (tmoOf s.env x.sc = 0 ∨ s.eng.iface.quiesce = true ∨ s.eng.iface.train = true →
       exec (.fabricTimeout (.hfp h) ⟨tag, tie⟩) s = .next (s.onEng { s.eng with tie := false }))) ∧
  ((∀ (s : State) (tag : Nat) (tie : Bool) (x : CfpX),
      s.eng.hed.cfpOut.find? (fun x => x.tag == tag && !x.timedOut) = some x →
      (tmoOf s.env 1 ≠ 0 → s.eng.iface.quiesce = false → s.eng.iface.train = false →
        (∀ n evt, x.who = .record n evt →
          Reaches (.fabricTimeout .cfp ⟨tag, tie⟩) s (fun t =>
            t.eng.evts = s.eng.evts + (if evt then 1 else 0) ∧
            t.eng.cnt = { s.eng.cnt with cfpWrErr := satInc s.eng.cnt.cfpWrErr 1 } ∧ wbit t.eng.errStatus 1 = true ∧
            (∃ y ∈ t.eng.hed.cfpOut, y.tag = tag ∧ y.timedOut = true) ∧
            t.eng.hed = { s.eng.hed with cfpOut := t.eng.hed.cfpOut } ∧
            t.eng.hed.cfpOut.length = s.eng.hed.cfpOut.length ∧
            t.eng.jobs = s.eng.jobs ∧ t.eng.mem = s.eng.mem ∧ SameOutside s t)) ∧
        ((∀ n evt, x.who ≠ .record n evt) →
          Reaches (.fabricTimeout .cfp ⟨tag, tie⟩) s (fun t =>
            t.eng.cnt.cfpRdErr = satInc s.eng.cnt.cfpRdErr 1 ∧ wbit t.eng.errStatus 0 = true ∧
            (∃ y ∈ t.eng.hed.cfpOut, y.tag = tag ∧ y.timedOut = true) ∧ t.eng.pl = s.eng.pl ∧
            (∀ n q, x.who = .descr n q → NoDrops s → (∃ i ∈ s.eng.hed.queue, i.ring = n ∧ i.seq = q) →
              ∃ i ∈ t.eng.hed.queue, i.ring = n ∧ i.seq = q ∧ i.arrived = true ∧ i.bad = some .fabricTimeout) ∧
            SameOutside s t))) ∧
      (tmoOf s.env 1 = 0 ∨ s.eng.iface.quiesce = true ∨ s.eng.iface.train = true →
        exec (.fabricTimeout .cfp ⟨tag, tie⟩) s = .next (s.onEng { s.eng with tie := false }))) ∧
   (∀ (s : State) (tag : Nat) (tie : Bool) (x : MwX) (u : IwpTx),
      s.eng.iwp.out.find? (fun x => x.tag == tag && !x.timedOut) = some x →
      s.eng.iwp.txs.find? (fun t => t.num == x.num) = some u →
      (tmoOf s.env x.sc ≠ 0 → s.eng.iface.quiesce = false → s.eng.iface.train = false → s.eng.iwp.want = [] →
        Reaches (.fabricTimeout .iwp ⟨tag, tie⟩) s (fun t =>
          (u.left = 1 →
            t.eng.iwp.resps = s.eng.iwp.resps ++ [⟨u.src, u.id, 1, u.win⟩] ∧
            t.eng.iwp.txs = s.eng.iwp.txs.filter (fun y => y.num != u.num) ∧
            t.eng.cnt = { s.eng.cnt with iwpErr := satInc s.eng.cnt.iwpErr 1 } ∧ wbit t.eng.errStatus 4 = true) ∧
          (1 < u.left →
            t.eng.iwp.resps = s.eng.iwp.resps ∧ t.eng.cnt = s.eng.cnt ∧
            ∃ y ∈ t.eng.iwp.txs, y = { u with left := u.left - 1, bad := true }) ∧
          (∃ y ∈ t.eng.iwp.out, y.tag = tag ∧ y.timedOut = true) ∧
          t.eng.iwp.out.length = s.eng.iwp.out.length ∧ t.eng.iwp.opened = s.eng.iwp.opened ∧
          t.eng.jobs = s.eng.jobs ∧ t.eng.mem = s.eng.mem ∧ t.eng.hed = s.eng.hed ∧ SameOutside s t)) ∧
      (tmoOf s.env x.sc = 0 ∨ s.eng.iface.quiesce = true ∨ s.eng.iface.train = true →
        exec (.fabricTimeout .iwp ⟨tag, tie⟩) s = .next (s.onEng { s.eng with tie := false }))) ∧
   (∀ (s : State) (tag : Nat) (tie : Bool) (code : BitVec 2), s.eng.phase ≠ .reset →
      let stray (e : Eng) : Prop :=
        e.cnt = { s.eng.cnt with fabStray := satInc s.eng.cnt.fabStray 1 } ∧ wbit e.errStatus 3 = true ∧
        (∀ k, k < 32 → k ≠ 3 → wbit e.errStatus k = wbit s.eng.errStatus k)
      ((∀ x ∈ s.eng.hed.cfpOut, x.tag ≠ tag) →
        Reaches (.fabricWriteResponse .cfp tag ⟨code, tie⟩) s (fun t =>
          stray t.eng ∧ t = s.onEng { s.eng with cnt := t.eng.cnt, errStatus := t.eng.errStatus, tie := false }) ∧
        ∀ (line : BitVec 512) (entry : BitVec 128) (slot : BitVec 2048) (psn : Bool),
          ∀ c ∈ [Instr.summaryLineReturn tag line psn code, .doorbellLineReturn tag line psn code,
              .ringTableReturn tag entry psn code, .descriptorReturn tag slot psn code],
            Reaches c s (fun t =>
              stray t.eng ∧ t = s.onEng { s.eng with cnt := t.eng.cnt, errStatus := t.eng.errStatus })) ∧
      (s.env.cfg.iwp = true → (∀ x ∈ s.eng.iwp.out, x.tag ≠ tag) →
        Reaches (.fabricWriteResponse .iwp tag ⟨code, tie⟩) s (fun t =>
          stray t.eng ∧ t = s.onEng { s.eng with cnt := t.eng.cnt, errStatus := t.eng.errStatus, tie := false })))) ∧
  (∀ (v : Env) (a : Nat),
    let base (t : Nat) : Nat :=
      (v.regs.dt.look t).aperLo.toNat / 65536 * 65536 + (v.regs.dt.look t).aperHi.toNat % 2 ^ 20 * 2 ^ 32
    let holds (t : Nat) : Prop :=
      t < 32 ∧ (v.regs.dt.look t).shape.toNat.testBit 31 = true ∧ base t ≤ a ∧
      a < base t + dtBlocks (v.regs.dt.look t) * 2 ^ dtLog (v.regs.dt.look t)
    (∀ t b o, dtFind v a = some (t, b, o) ↔
      holds t ∧ (∀ u, u < t → ¬holds u) ∧ b = (a - base t) / 2 ^ dtLog (v.regs.dt.look t) ∧
      o = a % 2 ^ dtLog (v.regs.dt.look t)) ∧
    (dtFind v a = none ↔ ∀ t, ¬holds t)) ∧
  (∀ (v : Env) (e : Eng) (j : Job) (r : Req) (rest : List Req) (t b o : Nat), j.xq = r :: rest →
    e.jobAt j.key = some j → j.g < 96 → e.iface.mayIssue j.desc.sc = true → r.resolve = true →
    dtFind v (r.addr % 2 ^ 52) = some (t, b, o) → (e.hr.look (j.g / 8)).xacts = [] →
    hfpReady v (j.g / 8) j.desc.sc = true → 0 < readCap v (j.g / 8) j.desc.sc → j.undef = false →
    (j.resolved.find? (fun x => x.1 == t && x.2.1 == b) = none → j.ownerBusy = false →
      ∃ e' x, issueHead v e j = some e' ∧ (e'.hr.look (j.g / 8)).xacts = [x] ∧ x.write = false ∧
        x.addr = ownerAt v t b ∧ x.len = 8 ∧ x.purpose = .owner t b ∧ x.owner = j.key ∧ x.remote = false ∧
        ∃ k, e'.jobAt j.key = some k ∧ k.ownerBusy = true ∧ k.xq = j.xq) ∧
    (j.resolved.find? (fun x => x.1 == t && x.2.1 == b) = none → j.ownerBusy = true → issueHead v e j = none) ∧
    (∀ node base, j.resolved.find? (fun x => x.1 == t && x.2.1 == b) = some (t, b, node, base) →
      (node = v.regs.nodeId.toNat % 64 → r.len + (base + o) % 4096 ≤ 4096 →
        ∃ e' x, issueHead v e j = some e' ∧ (e'.hr.look (j.g / 8)).xacts = [x] ∧ x.write = r.write ∧
          x.addr = (base + o) % 2 ^ 52 ∧ x.len = r.len ∧ x.remote = false ∧ x.data = r.data ∧ x.orig = r.addr ∧
          x.purpose = r.purpose ∧ ∃ k, e'.jobAt j.key = some k ∧ k.xq = rest) ∧
      (node ≠ v.regs.nodeId.toNat % 64 → r.write = false →
        ∃ e', issueHead v e j = some e' ∧ (e'.hr.look (j.g / 8)).xacts = [] ∧
          e'.cnt.dtRmtRd = satInc e.cnt.dtRmtRd 1 ∧ ∃ k, e'.jobAt j.key = some k ∧ k.xq = rest ∧ k.status = j.status ∧
            ∀ key i, r.purpose = .data key → i < r.len / 64 → key + 64 * i ∈ k.remote) ∧
      (node ≠ v.regs.nodeId.toNat % 64 → r.write = true → v.ao.qs = false → r.len + (base + o) % 4096 ≤ 4096 →
        ∃ e' x, issueHead v e j = some e' ∧ (e'.hr.look (j.g / 8)).xacts = [x] ∧ x.write = true ∧ x.remote = true ∧
          x.node = node ∧ x.win = t ∧ x.addr = (base + o) % 2 ^ 52 ∧ x.len = r.len ∧ x.data = r.data ∧
          e'.cnt.dtRmtWr = satInc e.cnt.dtRmtWr 1 ∧ ∃ k, e'.jobAt j.key = some k ∧ k.xq = rest) ∧
      (node ≠ v.regs.nodeId.toNat % 64 → r.write = true → v.ao.qs = true → j.st ≠ .ended → j.status = none →
        (e.pl.look j.g).wait ≠ .ending →
        ∃ e', issueHead v e j = some e' ∧ (e'.hr.look (j.g / 8)).xacts = [] ∧ e'.cnt = e.cnt ∧
          ∃ k, e'.jobAt j.key = some k ∧ k.status = some .windowClosed ∧ k.xq = []))) ∧
  (∀ (v : Env) (e : Eng) (j : Job) (r : Req) (rest : List Req), j.xq = r :: rest → r.write = true →
    hfpReady v (j.g / 8) j.desc.sc = false → issueHead v e j = none) ∧
  (∀ (e : Eng) (j : Job) (x : Xact) (data : BitVec 1024) (t b : Nat), e.jobAt j.key = some j → x.len = 8 →
    x.addr % 8 = 0 → x.beat = 0 →
    let w := bits data.toNat (8 * (x.addr % 128)) 64
    ∃ k, (gotOwner e j x data t b).jobAt j.key = some k ∧ k.ownerBusy = false ∧
      k.resolved.getLast? = some (t, b, bits w 58 6, bits w 0 52 / 64 * 64) ∧ k.resolved.length ≤ 16 ∧
      ∀ y ∈ j.resolved.drop (j.resolved.length - 15), y ∈ k.resolved)

/-! ### Phase dispatch -/

/-- A wrap of a domain's source: an ARMED domain runs from k = 0 and period 0; a RUNNING one counts k up, and at D
begins the next domain period; WRAP is set with each domain wrap. The phase of a running domain is k x 2^24 plus the
source's value, over D. The stall count's end sets STALL once (R268-R270, R273, R284; sampled phases: log 5).
kz_irq[d] is 1 while one of the domain's three status bits stands and is enabled, and 0 without phase dispatch, in
quickset mode and after a failed start (R284, R311, R354; one cycle later than the register: log 32). -/
def Obligations.SourceWrapMovesTheDomains : Prop :=
  (∀ (s : State) (wraps : BitVec 6) (ph : Phases), s.env.cfg.phase = true → s.eng.phase ≠ .reset →
    Reaches (.sourceWrap wraps ph) s (fun t =>
      (∀ d, d < 16 →
        let m := s.eng.dom.look d
        let n := t.eng.dom.look d
        let hit := wraps.toNat.testBit (domSrc s.env d)
        (m.st = .disabled → n = m) ∧
        (hit = false → n.st = m.st ∧ n.k = m.k ∧ n.pnum = m.pnum ∧ n.wrap = m.wrap) ∧
        (m.st = .armed → hit = true → n.st = .running ∧ n.k = 0 ∧ n.pnum = 0 ∧ n.wrap = true) ∧
        (m.st = .running → hit = true → n.st = .running ∧
          (m.k + 1 < domDiv s.env d → n.k = m.k + 1 ∧ n.pnum = m.pnum ∧ n.wrap = m.wrap) ∧
          (domDiv s.env d ≤ m.k + 1 → n.k = 0 ∧ n.pnum = m.pnum + 1 ∧ n.wrap = true)) ∧
        (n.st = .running →
          n.phase = BitVec.ofNat 24 ((n.k * 2 ^ 24 + (ph.look (domSrc s.env d)).toNat) / domDiv s.env d)) ∧
        n.mark = m.mark ∧ n.drop = m.drop ∧ n.stall = m.stall ∧ n.late = m.late ∧ n.discard = m.discard) ∧
      t.eng.phVal = ph ∧ t.eng.phWrap = wraps ∧ t.eng.jobs = s.eng.jobs ∧ t.eng.hed = s.eng.hed ∧
      t.eng.mem = s.eng.mem ∧ t.eng.pl = s.eng.pl ∧ SameOutside s t)) ∧
  (∀ (s : State) (d : Nat),
    ((s.eng.dom.look d).st = .running → (s.eng.dom.look d).stalled = false →
      bits (s.env.regs.pd.look d).cfg.toNat 0 16 ≠ 0 →
      exec (.pdStall d) s = .next (s.onEng (s.eng.onDom d (fun m => { m with stall := true, stalled := true })))) ∧
    ((s.eng.dom.look d).st ≠ .running ∨ (s.eng.dom.look d).stalled = true ∨
        bits (s.env.regs.pd.look d).cfg.toNat 0 16 = 0 → Idles (.pdStall d) s)) ∧
  (∀ (s : State) (d : Nat),
    kzIrq s d = true ↔
      (s.env.cfg.phase = true ∧ s.env.ao.qs = false ∧ s.eng.phase ≠ .failed) ∧
      (((s.eng.dom.look d).wrap = true ∧ wbit (s.env.regs.pd.look d).ie 16 = true) ∨
       ((s.eng.dom.look d).drop = true ∧ wbit (s.env.regs.pd.look d).ie 17 = true) ∨
       ((s.eng.dom.look d).stall = true ∧ wbit (s.env.regs.pd.look d).ie 18 = true)))

/-- The opening of a head's window puts it in the admission order: directly after the last job of its own ring there,
and where there is none before every job that waits, among such openings in ascending domain, open phase and ring; the
jobs of the order keep theirs (R245). One whose window opens and closes in one cycle is
dropped. The close of a job's window gives it DROPPED_LATE; in the next cycle its instance has its drop mark, and jobs
of the instance that close then get DROPPED_LATE too; in the cycle after that the rest of the instance gets
DROPPED_PERIOD. A queued job whose window closes leaves with a record of DROPPED_LATE. With no close, no job is touched.
After a restart of fc the windows that closed meanwhile close then, and a wipe that waited begins (R202, R245, R276,
R279-R281, R322, R360; what each of the three cycles captures: log 19; which statuses arise in one cycle: log 77). -/
def Obligations.WindowsOpenAndClose : Prop :=
  let closes (c : Instr) (s : State) (tie : Bool) (ph : Phases) (next next2 : Captured) : Prop :=
    let e0 : Eng := { s.eng.sample s.env ph with tie := tie }
    let e1 : Eng := { e0.capture s.env next with tie := false }
    (s.eng.jobs.map Job.key).Nodup →
    (∀ k j w, s.eng.jobAt k = some j → closesJob e0 j = true → j.win = some w →
      Reaches c s (fun t =>
        StatusAt t k (statusAfter s tie j .droppedLate) ∧
        (j.desc.domain < 16 →
          (t.eng.dom.look j.desc.domain).drop = true ∧ (t.eng.dom.look j.desc.domain).mark.isSome = true) ∧
        (∀ x o, s.eng.jobAt x = some o → o.bound = true → o.st ≠ .ended → o.desc.domain = j.desc.domain →
          (∃ u, o.win = some u ∧ u.inst = w.inst) → closesJob e0 o = false →
          StatusAt t x (o.status.getD (if closesJob e1 o then .droppedLate else .droppedPeriod))) ∧
        t.eng.phVal = next2.ph ∧ SameOutside s t)) ∧
    (NoDrops s → ∀ q ∈ s.eng.hed.queue, closesQueued e0 q = true →
      Reaches c s (fun t =>
        (∃ r ∈ t.eng.hed.ends, r.ring = q.ring ∧ r.seq = q.seq ∧ r.key = none ∧ r.status = .droppedLate) ∧
        SameOutside s t)) ∧
    ((∀ j ∈ s.eng.jobs, closesJob e0 j = false) → (∀ q ∈ s.eng.hed.queue, closesQueued e0 q = false) →
      Reaches c s (fun t =>
        t.eng.jobs = s.eng.jobs ∧ t.eng.phVal = ph ∧ (∀ d, (t.eng.dom.look d).mark = (s.eng.dom.look d).mark) ∧
        SameOutside s t))
  ∀ (s : State) (tie : Bool) (ph : Phases) (next next2 : Captured), s.eng.phase ≠ .reset →
    let e := s.eng.sample s.env ph
    (s.env.phaseOn = true → NoDrops s →
      (∀ i ∈ s.eng.hed.queue, opensNow e i = true → closesQueued e i = false) →
      ∀ n q, s.eng.hed.head n = some q → (∃ r ∈ s.eng.hed.rings, r.num = n) →
      opensNow e q = true → q.handed = true → q.desc.ringFence = false →
      Reaches (.windowOpen ⟨ph, next, next2⟩) s (fun t =>
        (n, q.seq) ∈ t.eng.hed.order ∧
        (RingsSorted s →
          ∃ pre post, t.eng.hed.order = pre ++ (n, q.seq) :: post ∧
            (∀ a k b, s.eng.hed.order = a ++ k :: b → k.1 = n → (∀ x ∈ b, x.1 ≠ n) →
              pre.getLast? = some k ∧ (a ++ [k]).Sublist pre ∧ b.Sublist post) ∧
            ((∀ k ∈ s.eng.hed.order, k.1 ≠ n) →
              s.eng.hed.order.Sublist post ∧
              ∀ m p, s.eng.hed.head m = some p → (∃ r ∈ s.eng.hed.rings, r.num = m) → opensNow e p = true →
                p.handed = true → p.desc.ringFence = false → (∀ k ∈ s.eng.hed.order, k.1 ≠ m) →
                n < 2 ^ 16 → m < 2 ^ 16 → p.desc.openPhase < 2 ^ 24 → q.desc.openPhase < 2 ^ 24 →
                (p.desc.domain < q.desc.domain ∨ (p.desc.domain = q.desc.domain ∧
                  (p.desc.openPhase < q.desc.openPhase ∨ (p.desc.openPhase = q.desc.openPhase ∧ m < n)))) →
                (m, p.seq) ∈ pre)) ∧
        (∃ i ∈ t.eng.hed.queue, i.ring = n ∧ i.seq = q.seq ∧ i.ordered = true ∧
          ∃ w, i.win = some w ∧ w.opened = true) ∧
        t.eng.phVal = ph ∧ t.eng.jobs = s.eng.jobs ∧ t.eng.mem = s.eng.mem ∧ t.eng.pl = s.eng.pl ∧
        SameOutside s t)) ∧
    (s.env.phaseOn = true → ∀ q ∈ s.eng.hed.queue, opensNow e q = true → closesQueued e q = true →
      Reaches (.windowOpen ⟨ph, next, next2⟩) s (fun t =>
        (∃ r ∈ t.eng.hed.ends, r.ring = q.ring ∧ r.seq = q.seq ∧ r.key = none ∧ r.status = .droppedLate) ∧
        (∀ w, q.win = some w → q.desc.domain < 16 → (t.eng.dom.look q.desc.domain).drop = true) ∧ SameOutside s t)) ∧
    (s.env.phaseOn = true → closes (.windowClose ⟨⟨ph, next, next2⟩, tie⟩) s tie ph next next2) ∧
    (s.env.phaseOn = true → (∀ i ∈ s.eng.hed.queue, opensNow e i = false) →
      closes (.fcRestart ⟨ph, next, next2⟩) s s.eng.tie ph next next2) ∧
    (s.env.phaseOn = false →
      Idles (.windowOpen ⟨ph, next, next2⟩) s ∧ Idles (.windowClose ⟨⟨ph, next, next2⟩, tie⟩) s) ∧
    (s.env.phaseOn = false → s.eng.wipe = .waiting →
      exec (.fcRestart ⟨ph, next, next2⟩) s =
        .next (s.onEng { s.eng with wipe := .zeroing, mem := { s.eng.mem with privet := [] } })) ∧
    (s.env.phaseOn = false → s.eng.wipe ≠ .waiting → Idles (.fcRestart ⟨ph, next, next2⟩) s)

/-! ### The inbound window port, the handshakes and retention -/

/-- An inbound transaction is accepted when its window is open, has pages and holds every byte it writes, and is then
written locally in order; otherwise it is refused with WINDOW_CLOSED and nothing is written. The port takes one while
fewer than 64 are accepted, no response waits and no quiesce is in effect; in quickset mode it is never held. A response
that is taken leaves the port (R295, R296, R308, R309, R318, R360). That it becomes one local write, or two where it
crosses a 4 KiB boundary, is the model's cut (log 15). -/
def Obligations.InboundTransactionsAreChecked : Prop :=
  (∀ (s : State) (win src : BitVec 6) (addr : BitVec 52) (id : BitVec 16) (sc : BitVec 2) (len : BitVec 5)
      (bytes : List (Option Byte)),
    let w := win.toNat
    let a := addr.toNat / 64 * 64
    let data := bytes.take (64 * (len.toNat + 1))
    let r := s.env.regs.win.look w
    let base := r.lo.toNat / 4096 * 4096 + r.hi.toNat % 2 ^ 20 * 2 ^ 32
    let pages := r.size.toNat % 2 ^ 20
    let ready := s.env.cfg.iwp = true ∧ s.eng.phase ≠ .reset ∧ s.eng.phase ≠ .failed ∧
      (s.env.ao.qs = true ∨
        (s.eng.iface.quiesce = false ∧ s.eng.iwp.txs.length < 64 ∧ s.eng.iwp.resps = []))
    let open_ := w < 32 ∧ wbit s.eng.iwp.opened w = true ∧ pages ≠ 0 ∧ s.env.ao.qs = false ∧
      (∀ k b, data[k]? = some (some b) → base ≤ a + k ∧ a + k < base + 4096 * pages)
    (¬ready → Idles (.iwpInbound win addr src id sc ⟨len, bytes⟩) s) ∧
    (ready → open_ →
      Reaches (.iwpInbound win addr src id sc ⟨len, bytes⟩) s (fun t =>
        t.eng.cnt = { s.eng.cnt with iwpAccept := satInc s.eng.cnt.iwpAccept 1 } ∧
        (∃ u, t.eng.iwp.txs = s.eng.iwp.txs ++ [u] ∧ u.num = s.eng.iwp.next ∧ u.win = win ∧ u.src = src ∧ u.id = id ∧
          u.bad = false ∧ u.left = if a % 4096 + data.length ≤ 4096 then 1 else 2) ∧
        (a % 4096 + data.length ≤ 4096 →
          ∃ x ∈ t.eng.iwp.want ++ t.eng.iwp.out, x.num = s.eng.iwp.next ∧ x.addr = a ∧ x.data = data ∧
            x.sc = sc.toNat) ∧
        (4096 < a % 4096 + data.length →
          (∃ x ∈ t.eng.iwp.want ++ t.eng.iwp.out, x.num = s.eng.iwp.next ∧ x.addr = a ∧
            x.data = data.take (4096 - a % 4096) ∧ x.sc = sc.toNat) ∧
          ∃ x ∈ t.eng.iwp.want ++ t.eng.iwp.out, x.num = s.eng.iwp.next ∧
            x.addr = (a + (4096 - a % 4096)) % 2 ^ 52 ∧ x.data = data.drop (4096 - a % 4096) ∧ x.sc = sc.toNat) ∧
        t.eng.iwp.resps = s.eng.iwp.resps ∧ t.eng.iwp.opened = s.eng.iwp.opened ∧
        t = s.onEng { s.eng with cnt := t.eng.cnt, iwp := t.eng.iwp })) ∧
    (ready → ¬open_ →
      exec (.iwpInbound win addr src id sc ⟨len, bytes⟩) s =
        .next (s.onEng
          { s.eng with
            cnt := { s.eng.cnt with iwpDrop := satInc s.eng.cnt.iwpDrop 1 }
            iwp := { s.eng.iwp with resps := s.eng.iwp.resps ++ [⟨src, id, 2, win⟩] } }))) ∧
  (∀ (s : State) (r : IwpResp) (rest : List IwpResp), s.eng.iwp.resps = r :: rest →
    exec .iwpResponseAccepted s = .next (s.onEng { s.eng with iwp := { s.eng.iwp with resps := rest } }))

/-- The clock and memory handshakes with nothing waiting for them: kz_clk_req stops the slices and re-admission tests
in progress (a re-admission test: log 42) and holds SC0, kz_clk_ack answers once no SC0 transaction is outstanding and
training has ended; kz_mem_quiesce holds every class and kz_mem_train SC2 and SC3. After a failed start the levels are
still captured (R311, R318, R319, R321, R335). kz_err is 1 while a cause stands and is enabled, PV_FAIL, LCS_INVALID
and a failed start among them, and 0 while kz_rst_n is low (R300, R311, R396). -/
def Obligations.HandshakesHoldTheClasses : Prop :=
  (∀ s : State, s.eng.phase = .reset → kzErr s = false) ∧
  ∀ s : State, s.eng.phase ≠ .reset →
    let level (p : Pins → Pins) (f : Iface → Iface) : State :=
      { s with env := { s.env with pins := p s.env.pins }, eng := { s.eng with iface := f s.eng.iface } }
    Reaches .clkReqRaise s (fun t =>
      t.eng.iface = { s.eng.iface with clkReq := true } ∧
      (s.eng.iface.train = false → t.eng.iface.mayIssue 0 = false) ∧
      (∀ h, h < 12 → t.eng.hr.look h =
        { s.eng.hr.look h with
          testCut := (s.eng.hr.look h).testCut || (s.eng.hr.look h).testRun
          turn := (s.eng.hr.look h).turn.map (fun u => if u.st = .running then { u with st := .clearing } else u) }) ∧
      t = { s with
        env := { s.env with pins := { s.env.pins with clkReq := true } }
        eng := { s.eng with iface := t.eng.iface, hr := t.eng.hr } }) ∧
    (s.eng.phase ≠ .failed → s.eng.iface.clkReq = true → s.eng.iface.train = false → sc0Out s.eng = 0 →
      exec .clkAckRaise s = .next (s.onEng { s.eng with iface := { s.eng.iface with clkAck := true } })) ∧
    (s.eng.phase = .failed ∨ s.eng.iface.clkReq = false ∨ s.eng.iface.train = true ∨ sc0Out s.eng ≠ 0 →
      Idles .clkAckRaise s) ∧
    (s.eng.phase = .failed ∨ ((∀ h, PlannerOnly s h) ∧ s.eng.hed.cfpWant = [] ∧ s.eng.iwp.want = []) →
      exec .clkReqLower s =
        .next (level (fun p => { p with clkReq := false }) (fun i => { i with clkReq := false, clkAck := false })) ∧
      (∀ b, exec (.memQuiesce b) s = .next (level (fun p => { p with quiesce := b }) (fun i => { i with quiesce := b }))) ∧
      (∀ b, exec (.memTrain b) s = .next (level (fun p => { p with train := b }) (fun i => { i with train := b })))) ∧
    (s.eng.iface.quiesce = true → ∀ sc, s.eng.iface.mayIssue sc = false) ∧
    (s.eng.iface.train = true → s.eng.iface.mayIssue 2 = false ∧ s.eng.iface.mayIssue 3 = false) ∧
    (kzErr s = true ↔
      (∃ i, i < 32 ∧ wbit s.eng.errStatus i = true ∧ wbit s.env.regs.errEnable i = true) ∨
      (s.env.rep.pvFail = true ∧ wbit s.env.regs.errEnable 8 = true) ∨
      (s.env.sec.lcsInvalid = true ∧ wbit s.env.regs.errEnable 9 = true) ∨
      (s.eng.phase = .failed ∧ wbit s.env.regs.errEnable 10 = true))

/-! ### Security -/

/-- The first lifecycle code is registered without a wipe, another one with it, the same one changes nothing; an
undefined code is noted. The first tamper event sets the latch and wipes. Events of one event cycle, and events that
come while fc is stopped, start a single wipe. A wipe makes every privet save slot invalid and the bank zero at once,
or once fc runs; it ends with its read-back, which reports failing lines. The rise of kz_test_mode wipes in the states
that permit scan and zeroes what the pleachers hold and the privet bytes that the movers hold, and SCAN_READY follows
the wipe (R202, R376-R381; which events share a cycle: log 77). The model's reading (log 46): without a privet bank
SCAN_READY follows at once; a registration that makes the block heed a kz_test_mode at 1 begins a zeroization too; a
rise in reset waits for START. -/
def Obligations.LifecycleAndTamperWipe : Prop :=
  let wiped (s : State) (sec : Sec) (stopped tie : Bool) : State :=
    let single := (tie = true ∧ s.eng.wipe ≠ .none) ∨ s.eng.wipe = .waiting
    { s with
      env := { s.env with sec := { sec with
        wipes := if single ∨ sec.wipes = 0xFFFF then sec.wipes else sec.wipes + 1 } }
      eng := { s.eng with
        wipe := if stopped then .waiting else .zeroing, pvSlots := []
        mem := if stopped then s.eng.mem else { s.eng.mem with privet := [] } } }
  let registered (s : State) (c : BitVec 4) : Sec :=
    { s.env.sec with lcs := some c, lcsInvalid := s.env.sec.lcsInvalid || !([3, 5, 6, 9, 10].contains c.toNat) }
  let rises (s : State) (c : BitVec 4) : Prop :=
    s.env.pins.testMode = true ∧ s.eng.phase ≠ .reset ∧ lcsScans (some c) = true ∧ lcsScans s.env.sec.lcs = false
  let zeroed (s t : State) : Prop :=
    (∀ g, g < 8 * s.env.cfg.hedgerows →
      (t.eng.pl.look g).tile = [] ∧ (t.eng.pl.look g).ctx.hdr = noHeaders ∧
      (t.eng.pl.look g).latches = ⟨none, none⟩ ∧
      (t.eng.pl.look g).flights.length = (s.eng.pl.look g).flights.length ∧
      ∀ f ∈ (t.eng.pl.look g).flights,
        (∀ x ∈ f.mid, x = 0) ∧ (∀ r sh img, f.deliver = .reg r sh img → ∀ x ∈ img, x = 0) ∧
        (∀ i sel id rows, f.deliver = .perm i sel id rows → ∀ x ∈ rows, x = 0)) ∧
    (s.eng.privetOn = true → t.eng.zeroize = true ∧ t.eng.pvSlots = [] ∧ t.eng.scanReady = s.eng.scanReady) ∧
    (s.eng.privetOn = false → t.eng.scanReady = true ∧ t.eng.wipe = s.eng.wipe) ∧
    (∀ k j, s.eng.jobAt k = some j → ∃ j', t.eng.jobAt k = some j' ∧
      j' = { j with
        rd := j'.rd, srcAt := j'.srcAt, idxAt := j'.idxAt, copy := { j.copy with rd := j'.copy.rd } } ∧
      (∀ a, Mem.byte j'.srcAt (placeKey .privet a) = 0 ∧ Mem.byte j'.idxAt (placeKey .privet a) = 0) ∧
      (∀ x ∈ copyList j.boxes, x.1.1.inst = .privet → ∀ o, o < 64 → Mem.byte j'.copy.rd (64 * x.2 + o) = 0)) ∧
    t.env.regs = s.env.regs ∧ t.eng.hed = s.eng.hed ∧ t.eng.hr = s.eng.hr
  ∀ s : State,
    (∀ c stopped tie, s.env.sec.lcs = none → ¬rises s c →
      exec (.lcsRegister c ⟨stopped, tie⟩) s = .next { s with env := { s.env with sec := registered s c } }) ∧
    (∀ c stopped tie, s.env.sec.lcs = some c → Idles (.lcsRegister c ⟨stopped, tie⟩) s) ∧
    (∀ c x stopped tie, s.env.sec.lcs = some x → x ≠ c → ¬rises s c → s.eng.privetOn = true →
      (∀ j ∈ s.eng.jobs, savingPrivet s.eng j = false) →
      exec (.lcsRegister c ⟨stopped, tie⟩) s = .next (wiped s (registered s c) stopped tie)) ∧
    (∀ c stopped tie, rises s c → (∀ j ∈ s.eng.jobs, savingPrivet s.eng j = false) →
      Reaches (.lcsRegister c ⟨stopped, tie⟩) s (fun t =>
        zeroed s t ∧ t.env.pins = s.env.pins ∧
        (s.eng.privetOn = true →
          t.env.sec = (wiped s (registered s c) stopped tie).env.sec ∧
          t.eng.wipe = (if stopped then .waiting else .zeroing) ∧
          (∀ a, t.eng.mem.byte .privet a = if stopped then s.eng.mem.byte .privet a else 0)) ∧
        (s.eng.privetOn = false → t.env.sec = registered s c))) ∧
    (∀ stopped tie, s.env.sec.tamper = true → Idles (.tamper ⟨stopped, tie⟩) s) ∧
    (∀ stopped tie, s.env.sec.tamper = false → s.eng.privetOn = true → (∀ j ∈ s.eng.jobs, savingPrivet s.eng j = false) →
      exec (.tamper ⟨stopped, tie⟩) s = .next (wiped s { s.env.sec with tamper := true } stopped tie)) ∧
    (s.eng.wipe = .zeroing → exec .wipeReadback s = .next (s.onEng { s.eng with wipe := .readback })) ∧
    (s.eng.wipe = .readback →
      exec (.wipeEnd []) s = .next (s.onEng
        { s.eng with wipe := .none, scanReady := s.eng.scanReady || s.eng.zeroize, zeroize := false }) ∧
      (∀ line, s.env.rep.pvFail = false →
        Reaches (.wipeEnd [line]) s (fun t =>
          t.env.rep = { s.env.rep with pvFail := true, pvLine := BitVec.ofNat 12 line } ∧
          t.eng.wipe = .none))) ∧
    (s.env.pins.testMode = false → s.eng.phase ≠ .reset →
      (lcsScans s.env.sec.lcs = false →
        exec .testModeRise s = .next { s with env := { s.env with pins := { s.env.pins with testMode := true } } }) ∧
      (lcsScans s.env.sec.lcs = true → (∀ j ∈ s.eng.jobs, savingPrivet s.eng j = false) →
        Reaches .testModeRise s (fun t =>
          t.env.pins.testMode = true ∧ zeroed s t ∧
          (s.eng.privetOn = true → t.eng.wipe = .zeroing ∧ ∀ a, t.eng.mem.byte .privet a = 0)))) ∧
    (s.env.pins.testMode = false → s.eng.phase = .reset →
      exec .testModeRise s = .next { s with env := { s.env with pins := { s.env.pins with testMode := true } } }) ∧
    (s.env.pins.testMode = true → Idles .testModeRise s)

/-- The test network: it reads the repair log without removing from it and the words of the fuse box, writes
SOFT_REPAIR under that register's own conditions, holds the configuration of the BIST controllers, reaches a powered
array of the configuration while the block is stopped in a lifecycle state that permits it and no array otherwise, and
never the privet bank. A memory that is being cleared makes the access wait, and one that sleeps wakes first. The
wrapper shifts through its bypass bit in WS_BYPASS; a capture and an update of it leave the block as it is, but for
what the bypass bit captures; every other access leaves KZ_NETSEL in place. A tile register that is written loses its
reuse latches (R120). A byte of control memory that the network has not written reads 0 after the start (R7, R186,
R193, R205, R208, R310, R323, R354, R380, R381; what a powered-down array, another wrapper instruction, a capture,
control memory after the block has run, and a BIST result answer: log 33). -/
def Obligations.NetworkReachesTheArrays : Prop :=
  let selected (s : State) : State := { s with env := { s.env with wrap := { s.env.wrap with ins := .netsel } } }
  let answers (s : State) (a : NetAccess) (x : W32) : Prop :=
    exec (.networkAccess a) s = .next { selected s with eng := { s.eng with netData := x } }
  let waits (s : State) (a : NetAccess) : Prop := exec (.networkAccess a) s = .next (selected s)
  ∀ s : State,
    exec (.networkAccess .wrapReset) s = .next { s with env := { s.env with wrap := Wrapper.reset } } ∧
    (∀ i, exec (.networkAccess (.wrapSelect i)) s =
      .next { s with env := { s.env with wrap := { s.env.wrap with ins := i } } }) ∧
    (∀ b, s.eng.zeroize = false → s.env.wrap.ins = .bypass →
      exec (.networkAccess (.wrapShift b)) s =
        .next { s with env := { s.env with wrap := { s.env.wrap with byp := b, wso := s.env.wrap.byp } } }) ∧
    (∀ b, s.eng.zeroize = true →
      exec (.networkAccess (.wrapShift b)) s =
        .next { s with env := { s.env with wrap := { s.env.wrap with wso := false } } }) ∧
    Idles (.networkAccess .wrapUpdate) s ∧
    (s.eng.zeroize = true ∨ s.env.wrap.ins ≠ .bypass → Idles (.networkAccess .wrapCapture) s) ∧
    (s.eng.zeroize = false → s.env.wrap.ins = .bypass →
      Reaches (.networkAccess .wrapCapture) s (fun t =>
        t = { s with
          env := { s.env with wrap := { s.env.wrap with byp := t.env.wrap.byp } }
          eng := { s.eng with free := s.eng.free + 1 } })) ∧
    answers s .logRead (s.env.rep.log.headD 0) ∧
    (∀ n, answers s (.fuseView n) (s.env.rep.fuse.getD n 0)) ∧
    (∀ c w, Reaches (.networkAccess (.bistConfig c w)) s (fun t =>
      exec (.networkAccess (.bistConfigRead c)) t = .next { t with eng := { t.eng with netData := w } } ∧
      (∀ k, k ≠ c → bistCtl t.eng k = bistCtl s.eng k) ∧ t = { selected s with eng := { s.eng with bist := t.eng.bist } })) ∧
    (∀ c, Reaches (.networkAccess (.bistStart c)) s (fun t =>
      (bistCtl t.eng c).started = true ∧ (bistCtl t.eng c).word = (bistCtl s.eng c).word ∧
      t = { selected s with eng := { s.eng with bist := t.eng.bist } })) ∧
    (∀ c, Reaches (.networkAccess (.bistResult c)) s (fun t =>
      t = { selected s with eng := { s.eng with netData := t.eng.netData, free := s.eng.free + 1 } })) ∧
    (∀ x, answers s (.privetRead x) 0) ∧ (∀ x b, answers s (.privetWrite x b) 0) ∧
    (∀ w, exec (.networkAccess (.softRepair w)) s = exec (.softRepair w) (selected s)) ∧
    (s.eng.phase ≠ .stopped ∨ lcsScans s.env.sec.lcs = false →
      (∀ g x, answers s (.leafRead g x) 0) ∧ (∀ h x, answers s (.bankRead h x) 0) ∧
      (∀ g u x, answers s (.tileRead g u x) 0) ∧ (∀ x, answers s (.controlRead x) 0) ∧
      (∀ g x b, answers s (.leafWrite g x b) 0) ∧ (∀ h x b, answers s (.bankWrite h x b) 0) ∧
      (∀ g u x b, answers s (.tileWrite g u x b) 0) ∧ (∀ x b, answers s (.controlWrite x b) 0)) ∧
    (∀ g x b u, 8 * s.env.cfg.hedgerows ≤ g →
      answers s (.leafRead g x) 0 ∧ answers s (.leafWrite g x b) 0 ∧ answers s (.tileRead g u x) 0 ∧
      answers s (.tileWrite g u x b) 0) ∧
    (∀ h x b, s.env.cfg.hedgerows ≤ h → answers s (.bankRead h x) 0 ∧ answers s (.bankWrite h x b) 0) ∧
    (s.eng.phase = .stopped → lcsScans s.env.sec.lcs = true →
      (s.env.ao.unresolved = true → ∀ x, (∀ y ∈ s.eng.ctl, y.1 ≠ x) → answers s (.controlRead x) 0) ∧
      (∀ x b, Reaches (.networkAccess (.controlWrite x b)) s (fun t =>
        exec (.networkAccess (.controlRead x)) t =
          .next { t with eng := { t.eng with netData := b.zeroExtend 32 } } ∧ SameBytes s t)) ∧
      (∀ g x, g < 8 * s.env.cfg.hedgerows →
        (MemServes s false (.leaf g) →
          answers s (.leafRead g x) ((s.eng.mem.byte (.leaf g) x).zeroExtend 32) ∧
          ∀ b, MemInv s → Reaches (.networkAccess (.leafWrite g x b)) s (fun t =>
            (∀ i y, t.eng.mem.byte i y =
              if i = .leaf g ∧ y % 2 ^ 19 = x % 2 ^ 19 ∧ x % 2 ^ 19 < leafEnd then b else s.eng.mem.byte i y) ∧
            t = { selected s with eng := { s.eng with mem := t.eng.mem, netData := 0 } })) ∧
        (s.env.isOff (g / 8) (groupOf g) = false →
          (bitOn (s.eng.hr.look (g / 8)).lsInit.toNat (g % 8 / 4) = true → waits s (.leafRead g x)) ∧
          (bitOn (s.eng.hr.look (g / 8)).lsInit.toNat (g % 8 / 4) = false → (s.eng.hr.look (g / 8)).turn = none →
            (s.eng.hr.look (g / 8)).lsRet.look (g % 8) = .retained → (s.eng.hr.look (g / 8)).logicOff = false →
            exec (.networkAccess (.leafRead g x)) s =
              .next ((selected s).onEng (s.eng.onHr (g / 8) (fun r =>
                { r with lsRet := r.lsRet.put (g % 8) .waking })))))) ∧
      (∀ h x, h < s.env.cfg.hedgerows →
        (BankServes s h →
          answers s (.bankRead h x) ((s.eng.mem.byte (.bank h) x).zeroExtend 32) ∧
          ∀ b, MemInv s → Reaches (.networkAccess (.bankWrite h x b)) s (fun t =>
            (∀ i y, t.eng.mem.byte i y =
              if i = .bank h ∧ y % 2 ^ 20 = x % 2 ^ 20 then b else s.eng.mem.byte i y) ∧
            t = { selected s with eng := { s.eng with mem := t.eng.mem, netData := 0 } })) ∧
        (s.env.isOff h 3 = false →
          ((s.eng.hr.look h).hbInit = true → waits s (.bankRead h x)) ∧
          ((s.eng.hr.look h).hbInit = false → (s.eng.hr.look h).turn = none → (s.eng.hr.look h).hbRet = .retained →
            (s.eng.hr.look h).logicOff = false →
            exec (.networkAccess (.bankRead h x)) s =
              .next ((selected s).onEng (s.eng.onHr h (fun r => { r with hbRet := .waking })))))) ∧
      (∀ g u x b, g < 8 * s.env.cfg.hedgerows → s.env.isOff (g / 8) 0 = false →
        answers s (.tileRead g u x) ((Mem.byte (s.eng.pl.look g).tile (8192 * u + x)).zeroExtend 32) ∧
        exec (.networkAccess (.tileWrite g u x b)) s =
          .next { selected s with
            eng := { s.eng with
              netData := 0
              pl := s.eng.pl.upd g (fun p =>
                { p with tile := Mem.put p.tile (8192 * u + x) b, latches := p.latches.drop u }) } }))

/-! ### Coppice slices -/

/-- A round visits the comparator, pleachers 0 to 7, the spare, the leaf-store units by ascending pleacher and unit, and
the hedge-bank segments in ascending order; an unused spare has a turn, a unit that is lendable, not FAILED and powered,
and a segment that is so and has a lendable page outside the semaphore window (R198, R326, R331). A hedgerow's next turn
goes to the next target of its round that has one; it ends BIST_OUT_OF_RANGE outside the
range of R327, SKIPPED for a pleacher with an open window, and otherwise waits for its target. No turn begins while
ENABLE is 0, in quickset mode, out of service or during another turn. A secure job that outlasts the wait ends the
turn SKIPPED (R326-R329). That a turn that ends BIST_OUT_OF_RANGE uses up its place in the round is log 50. -/
def Obligations.TurnsFollowTheRound : Prop :=
  (targetAt 0 = ⟨9, 0, 0⟩ ∧ (∀ p, p < 8 → targetAt (1 + p) = ⟨p, 0, 0⟩) ∧ targetAt 9 = ⟨8, 0, 0⟩ ∧
   (∀ p u, p < 8 → u < 12 → targetAt (10 + 12 * p + u) = ⟨10, p, u⟩) ∧
   (∀ k, k < 16 → targetAt (106 + k) = ⟨11, 0, k⟩)) ∧
  (∀ (v : Env) (h : Nat), h < 12 →
    hasTurn v h ⟨9, 0, 0⟩ = true ∧ (∀ p, p < 8 → hasTurn v h ⟨p, 0, 0⟩ = true) ∧
    (hasTurn v h ⟨8, 0, 0⟩ = true ↔ (v.rep.hr.look h).spare = 1) ∧
    (∀ p u, p < 8 → u < 12 →
      (hasTurn v h ⟨10, p, u⟩ = true ↔
        (v.regs.lend.look (8 * h + p)).toNat.testBit u = true ∧
        (v.rep.leaf.look (8 * h + p)).failed.toNat.testBit u = false ∧ v.isOff h (1 + p / 4) = false)) ∧
    (∀ k, k < 16 →
      (hasTurn v h ⟨11, 0, k⟩ = true ↔
        (v.regs.hr.look h).lendHb.toNat.testBit k = true ∧
        (∃ i, i < 16 ∧
          (let w := (v.regs.hr.look h).semWin.toNat
           16 * k + i < bits w 0 8 ∨ bits w 0 8 + min 256 (bits w 16 9) ≤ 16 * k + i)) ∧
        (v.rep.hr.look h).failed.toNat.testBit k = false ∧ v.isOff h 3 = false))) ∧
  (∀ (s : State) (h : Nat), h < 12 →
    let r := s.eng.hr.look h
    (wbit s.env.regs.bistCfg 31 = true → inService s.env s.eng h = true → s.env.ao.qs = false → r.turn = none →
      r.testing = false →
      Reaches (.bistTurn h) s (fun t =>
        (∃ i, i < 122 ∧ hasTurn s.env h (targetAt ((r.nextTgt + i) % 122)) = true ∧
          (∀ k, k < i → hasTurn s.env h (targetAt ((r.nextTgt + k) % 122)) = false) ∧
          (t.eng.hr.look h).nextTgt = ((r.nextTgt + i) % 122 + 1) % 122 ∧
          (let u := targetAt ((r.nextTgt + i) % 122)
           (opptOk s.env s.eng = false →
             (t.eng.hr.look h).turn = none ∧ bits (t.eng.hr.look h).bistLast.toNat 28 4 = 4 ∧
             bits (t.eng.hr.look h).bistLast.toNat 16 4 = u.code) ∧
           (opptOk s.env s.eng = true → u.code < 8 → openOn s.eng (8 * h + u.code) = true →
             (t.eng.hr.look h).turn = none ∧ bits (t.eng.hr.look h).bistLast.toNat 28 4 = 5 ∧
             (t.eng.hr.look h).cnt.bistSkip = satInc r.cnt.bistSkip 1) ∧
           (opptOk s.env s.eng = true → 8 ≤ u.code ∨ openOn s.eng (8 * h + u.code) = false →
             ∃ w, (t.eng.hr.look h).turn = some w ∧ w.tgt = u ∧ w.st = .waiting ∧ w.forced = false ∧
               w.reclaim = false))) ∧
        (t.eng.hr.look h).mgmtIn = r.mgmtIn ∧ OnlyHr h s t)) ∧
    (wbit s.env.regs.bistCfg 31 = false ∨ inService s.env s.eng h = false ∨ s.env.ao.qs = true ∨
        r.turn ≠ none ∨ r.testing = true → Idles (.bistTurn h) s)) ∧
  (∀ (s : State) (h p : Nat) (u : Turn) (j : Job), h < 12 → p < 8 → (s.eng.hr.look h).turn = some u →
    u.tgt.code = p → u.st = .waiting → s.eng.curJob (8 * h + p) = some j →
    (j.secure = true →
      Reaches (.secureSliceTimeout h) s (fun t =>
        (t.eng.hr.look h).turn = none ∧ bits (t.eng.hr.look h).bistLast.toNat 28 4 = 5 ∧
        bits (t.eng.hr.look h).bistLast.toNat 16 4 = p ∧
        (t.eng.hr.look h).cnt.bistSkip = satInc (s.eng.hr.look h).cnt.bistSkip 1 ∧ OnlyHr h s t)) ∧
    (j.secure = false → Idles (.secureSliceTimeout h) s))

/-- A slice starts once its target is free: an idle pleacher whose record is out, the spare, a comparator without an
entry, an awake memory of which it borrows what is lendable; a sleeping memory wakes first, and a memory no longer
lendable ends the turn (which result then: log 42). A comparator that is not freed within 64 wraps of the domain that
holds it is taken by a fence of its hedgerow alone, SLICE_FORCED, and the turn goes on once the hedgerow is empty
(R207, R238, R328, R330, R331, R346). That a slice also starts only inside the range of R327, with fewer than 64 wraps
unless it is forced, and a forced one only once DRAINING is 0, is log 44. -/
def Obligations.SlicesWaitForTheirTarget : Prop :=
  ∀ (s : State) (h : Nat) (u : Turn), h < 12 → (s.eng.hr.look h).turn = some u → u.st = .waiting →
    let starts (w : Turn) : Prop := exec (.sliceStart h) s =
      .next (s.onEng (s.eng.onHr h (fun r => { r with turn := some { w with st := .running } })))
    let runs : Prop := starts u
    let lent : Turn := { u with pages := lentPages s.env h u.tgt.unit }
    (opptOk s.env s.eng = true →
      (u.tgt.code < 8 → (s.eng.pl.look (8 * h + u.tgt.code)).phase = .idle →
        savedOut s.eng (8 * h + u.tgt.code) = true → runs) ∧
      (u.tgt.code < 8 → (s.eng.pl.look (8 * h + u.tgt.code)).phase ≠ .idle → Idles (.sliceStart h) s) ∧
      (u.tgt.code = 8 → runs) ∧
      (u.tgt.code = 9 → u.forced = false → cmpDomains s.eng h = [] → u.wraps < 64 → runs) ∧
      (u.tgt.code = 9 → u.forced = false → cmpDomains s.eng h ≠ [] ∨ 64 ≤ u.wraps → Idles (.sliceStart h) s) ∧
      (u.tgt.code = 9 → u.forced = true → (∀ j ∈ s.eng.jobs, j.g / 8 = h → j.st = .ended) →
        (s.eng.hr.look h).draining = false → runs) ∧
      (10 ≤ u.tgt.code → hasTurn s.env h u.tgt = false →
        exec (.sliceStart h) s = .next (s.onEng (s.eng.onHr h (fun r => { r with turn := none })))) ∧
      (u.tgt.code = 10 → hasTurn s.env h u.tgt = true → u.tgt.pl < 8 → s.env.isOff h (1 + u.tgt.pl / 4) = false →
        bitOn (s.eng.hr.look h).lsInit.toNat (u.tgt.pl / 4) = false →
        ((s.eng.hr.look h).lsRet.look u.tgt.pl = .awake → runs) ∧
        ((s.eng.hr.look h).lsRet.look u.tgt.pl = .retained →
          exec (.sliceStart h) s = .next (s.onEng (s.eng.onHr h (fun r =>
            { r with lsRet := r.lsRet.put u.tgt.pl .waking }))))) ∧
      (u.tgt.code = 11 → hasTurn s.env h u.tgt = true → s.env.isOff h 3 = false → (s.eng.hr.look h).hbInit = false →
        ((s.eng.hr.look h).hbRet = .awake → starts lent) ∧
        ((s.eng.hr.look h).hbRet = .retained →
          exec (.sliceStart h) s = .next (s.onEng (s.eng.onHr h (fun r =>
            { r with turn := some lent, hbRet := .waking })))))) ∧
    (opptOk s.env s.eng = false → Idles (.sliceStart h) s) ∧
    (∀ d ph, d < 16 → u.holder = some d → s.env.cfg.phase = true → s.eng.phase ≠ .reset →
      (s.eng.dom.look d).st = .running → domDiv s.env d ≤ (s.eng.dom.look d).k + 1 →
      (∀ c, c < 16 → c ≠ d → domSrc s.env c ≠ domSrc s.env d) →
      Reaches (.sourceWrap (BitVec.ofNat 6 (2 ^ domSrc s.env d)) ph) s (fun t =>
        (t.eng.hr.look h).turn = some { u with wraps := u.wraps + 1 })) ∧
    (u.tgt.code = 9 → u.forced = false → inService s.env s.eng h = true →
      Reaches (.sliceForced h) s (fun t =>
        (t.eng.hr.look h).mgmtIn = false ∧ (t.eng.hr.look h).draining = true ∧ (t.eng.hr.look h).fenceCause = 3 ∧
        (t.eng.hr.look h).turn = some { u with forced := true } ∧
        (∀ k j, s.eng.jobAt k = some j → j.g / 8 = h → j.st ≠ .ended →
          StatusAt t k (statusAfter s s.eng.tie j .fencedUnit)) ∧
        (∀ k j, s.eng.jobAt k = some j → j.g / 8 ≠ h → t.eng.jobAt k = some j) ∧
        wbit t.eng.errStatus 5 = true ∧ wbit t.eng.errHr h = true ∧ SameOutside s t))

/-- A slice ends with its result, counted and recorded, and its target cleared: the tile registers of a pleacher, the
rows it borrowed. PASS repairs and fences nothing. FAIL: an unused spare takes a failing pleacher's number, with a log
entry, and without one the hedgerow is fenced with PLEACHER_FAIL; a failing spare is out of use; a failing comparator
is fenced with COMPARATOR_FAIL; failing rows of a memory are repaired in ascending row order, each by the lowest free
spare row with a log entry, and a row without one makes its unit FAILED with an UNREPAIRED entry. A slice that was
stopped is INCOMPLETE whatever it had found, a reclaimed one INCOMPLETE with RECLAIM. The comparator slice of a
SLICE_FORCED fence ends that fence, but a failing one keeps it, with COMPARATOR_FAIL (R324, R328, R332, R334,
R336-R338, R343, R349). -/
def Obligations.SlicesEndWithTheirResult : Prop :=
  (∀ (s : State) (g row : Nat), g < 96 → row < 768 → (∀ p ∈ (s.env.rep.leaf.look g).map, p.2 ≠ row) →
    (∀ x, x < 8 → x ∉ (s.env.rep.leaf.look g).bad → (∀ p ∈ (s.env.rep.leaf.look g).map, p.1 ≠ x) →
      (∀ y, y < x → y ∈ (s.env.rep.leaf.look g).bad ∨ ∃ p ∈ (s.env.rep.leaf.look g).map, p.1 = y) →
      (repairLeafRow s g row).eng = s.eng ∧
      (x, row) ∈ ((repairLeafRow s g row).env.rep.leaf.look g).map ∧
      ((repairLeafRow s g row).env.rep.leaf.look g).failed = (s.env.rep.leaf.look g).failed ∧
      (s.env.rep.log.length < 64 → (repairLeafRow s g row).env.rep.log =
        s.env.rep.log ++ [ofFields [(28, 1), (24, g / 8), (21, g % 8), (18, x), (0, row)]])) ∧
    ((∀ x, x < 8 → x ∈ (s.env.rep.leaf.look g).bad ∨ ∃ p ∈ (s.env.rep.leaf.look g).map, p.1 = x) →
      wbit (repairLeafRow s g row).eng.errStatus 7 = true ∧
      ((repairLeafRow s g row).env.rep.leaf.look g).failed =
        (s.env.rep.leaf.look g).failed ||| BitVec.ofNat 12 (2 ^ (row / 64)) ∧
      (s.env.rep.log.length < 64 → (repairLeafRow s g row).env.rep.log =
        s.env.rep.log ++ [ofFields [(28, 1), (24, g / 8), (21, g % 8), (12, 1), (0, row)]]))) ∧
  (∀ (s : State) (h bank row : Nat), h < 12 → bank < 32 → row < 128 → (bank, row) ∉ (s.env.rep.hr.look h).map →
    let used := bank ∈ (s.env.rep.hr.look h).bad ∨ ∃ p ∈ (s.env.rep.hr.look h).map, p.1 = bank
    (¬used → (repairBankRow s h bank row).eng = s.eng ∧ (bank, row) ∈ ((repairBankRow s h bank row).env.rep.hr.look h).map ∧
      (s.env.rep.log.length < 64 → (repairBankRow s h bank row).env.rep.log =
        s.env.rep.log ++ [ofFields [(28, 2), (24, h), (13, bank), (0, row)]])) ∧
    (used → wbit (repairBankRow s h bank row).eng.errStatus 7 = true ∧
      ((repairBankRow s h bank row).env.rep.hr.look h).failed =
        (s.env.rep.hr.look h).failed ||| BitVec.ofNat 16 (2 ^ (row / 8)) ∧
      (s.env.rep.log.length < 64 → (repairBankRow s h bank row).env.rep.log =
        s.env.rep.log ++ [ofFields [(28, 2), (24, h), (13, bank), (12, 1), (0, row)]]))) ∧
  (∀ (s : State) (h : Nat) (u : Turn) (obs : SliceObs) (rows : List Nat), h < 12 →
    (s.eng.hr.look h).turn = some u → u.forced = true → u.tgt.code = 9 → u.st ≠ .waiting → u.reclaim = false →
    PlannerOnly s h →
    let passed := obs.full = true ∧ obs.sig = true ∧ u.st = .running
    let fails := obs.full = true ∧ obs.sig = false ∧ u.st = .running
    Reaches (.sliceEnd h obs rows) s (fun t =>
      let r := s.eng.hr.look h
      let w := t.eng.hr.look h
      w.turn = none ∧ bits w.bistLast.toNat 26 1 = 1 ∧ bits w.bistLast.toNat 16 4 = 9 ∧
      (passed → bits w.bistLast.toNat 28 4 = 1 ∧ w.cnt.bistPass = satInc r.cnt.bistPass 1) ∧
      (¬passed → ¬fails → bits w.bistLast.toNat 28 4 = 3 ∧ w.cnt.bistInc = satInc r.cnt.bistInc 1) ∧
      (¬fails → s.eng.stop = none →
        w.fenceCause = 0 ∧ w.mgmtIn = (s.eng.phase == .running && !r.stopped)) ∧
      (fails → bits w.bistLast.toNat 28 4 = 2 ∧ w.cnt.bistFail = satInc r.cnt.bistFail 1 ∧ w.fenceCause = 2 ∧
        w.mgmtIn = r.mgmtIn) ∧
      t.env = s.env ∧ t.eng.jobs = s.eng.jobs ∧ (NoDrops s → t.eng.mem = s.eng.mem) ∧ t.eng.pl = s.eng.pl ∧
      t.eng.errStatus = s.eng.errStatus)) ∧
  ∀ (s : State) (h : Nat) (u : Turn), h < 12 → (s.eng.hr.look h).turn = some u → PlannerOnly s h →
    u.forced = false → u.tgt.code < 12 → u.tgt.pl < 8 → u.tgt.unit < 16 →
    let last (t : State) (lo n : Nat) : Nat := bits (t.eng.hr.look h).bistLast.toNat lo n
    let cleared (t : State) : Prop :=
      (t.eng.hr.look h).turn = none ∧ (u.tgt.code < 10 → last t 16 4 = u.tgt.code) ∧
      (u.tgt.code < 8 → (t.eng.pl.look (8 * h + u.tgt.code)).tile = [] ∧
        (t.eng.pl.look (8 * h + u.tgt.code)).ctx.hdr = noHeaders) ∧
      (u.tgt.code = 10 → ∀ a, a < 32768 →
        t.eng.mem.byte (.leaf (8 * h + u.tgt.pl)) (32768 * u.tgt.unit + a) = 0) ∧
      (u.tgt.code = 11 → ∀ p ∈ u.pages, ∀ a, a < 4096 → t.eng.mem.byte (.bank h) (4096 * p + a) = 0) ∧
      t.env.regs = s.env.regs ∧ t.env.sec = s.env.sec
    (u.st = .running → u.reclaim = false → NoDrops s → ∀ rows,
      let failed (t : State) : Prop :=
        cleared t ∧ last t 28 4 = 2 ∧ (t.eng.hr.look h).cnt.bistFail = satInc (s.eng.hr.look h).cnt.bistFail 1
      let fenced (t : State) (cause : BitVec 3) : Prop :=
        (t.eng.hr.look h).fenceCause = cause ∧ (t.eng.hr.look h).mgmtIn = false ∧ (t.eng.hr.look h).draining = true ∧
        (∀ k j, s.eng.jobAt k = some j → j.g / 8 = h → j.st ≠ .ended →
          StatusAt t k (statusAfter s s.eng.tie j .fencedUnit)) ∧
        wbit t.eng.errStatus 5 = true ∧ wbit t.eng.errHr h = true
      let unfenced (t : State) : Prop :=
        (t.eng.hr.look h).fenceCause = (s.eng.hr.look h).fenceCause ∧
        (t.eng.hr.look h).mgmtIn = (s.eng.hr.look h).mgmtIn ∧ t.eng.jobs = s.eng.jobs ∧ OtherHr h s t
      Reaches (.sliceEnd h ⟨true, true⟩ rows) s (fun t =>
        cleared t ∧ last t 28 4 = 1 ∧ last t 27 1 = 0 ∧
        (t.eng.hr.look h).cnt.bistPass = satInc (s.eng.hr.look h).cnt.bistPass 1 ∧
        (t.eng.hr.look h).fenceCause = (s.eng.hr.look h).fenceCause ∧
        (t.eng.hr.look h).mgmtIn = (s.eng.hr.look h).mgmtIn ∧ t.env = s.env ∧ t.eng.jobs = s.eng.jobs ∧
        OtherHr h s t) ∧
      (∀ sig, Reaches (.sliceEnd h ⟨false, sig⟩ rows) s (fun t =>
        cleared t ∧ last t 28 4 = 3 ∧
        (t.eng.hr.look h).cnt.bistInc = satInc (s.eng.hr.look h).cnt.bistInc 1 ∧
        (t.eng.hr.look h).fenceCause = (s.eng.hr.look h).fenceCause ∧ t.env = s.env ∧ t.eng.jobs = s.eng.jobs ∧
        OtherHr h s t)) ∧
      (u.tgt.code = 9 → Reaches (.sliceEnd h ⟨true, false⟩ rows) s (fun t => failed t ∧ fenced t 2)) ∧
      (u.tgt.code < 8 → (s.env.rep.hr.look h).spare ≠ 1 →
        Reaches (.sliceEnd h ⟨true, false⟩ rows) s (fun t =>
          failed t ∧ fenced t 1 ∧ (t.eng.hr.look h).plFail.toNat.testBit u.tgt.code = true)) ∧
      (u.tgt.code < 8 → (s.env.rep.hr.look h).spare = 1 →
        Reaches (.sliceEnd h ⟨true, false⟩ rows) s (fun t =>
          failed t ∧ unfenced t ∧ (t.eng.hr.look h).plFail.toNat.testBit u.tgt.code = true ∧
          (t.env.rep.hr.look h).spare = 2 ∧ (t.env.rep.hr.look h).spareFor.toNat = u.tgt.code ∧
          (t.eng.pl.look (8 * h + u.tgt.code)).routes = [] ∧
          (s.env.rep.log.length < 64 →
            t.env.rep.log = s.env.rep.log ++ [ofFields [(28, 3), (24, h), (21, u.tgt.code)]]))) ∧
      (u.tgt.code = 8 →
        Reaches (.sliceEnd h ⟨true, false⟩ rows) s (fun t =>
          failed t ∧ unfenced t ∧ (t.env.rep.hr.look h).spare = 3 ∧ wbit t.eng.errStatus 7 = true)) ∧
      (u.tgt.code = 10 →
        Reaches (.sliceEnd h ⟨true, false⟩ rows) s (fun t =>
          failed t ∧ unfenced t ∧
          ∃ rs : List Nat, rs.Pairwise (· < ·) ∧ (∀ r, r ∈ rs ↔ r ∈ rows ∧ r / 64 = u.tgt.unit) ∧
            t.env = (rs.foldl (fun s r => repairLeafRow s (8 * h + u.tgt.pl) r) s).env)) ∧
      (u.tgt.code = 11 →
        Reaches (.sliceEnd h ⟨true, false⟩ rows) s (fun t =>
          failed t ∧ unfenced t ∧
          ∃ rs : List (Nat × Nat), rs.Pairwise (fun a b => a.2 < b.2 ∨ (a.2 = b.2 ∧ a.1 < b.1)) ∧
            (∀ b r, (b, r) ∈ rs ↔ 128 * b + r ∈ rows ∧ b < 32 ∧ r < 128 ∧ r / 8 = u.tgt.unit) ∧
            t.env = (rs.foldl (fun s x => repairBankRow s h x.1 x.2) s).env))) ∧
    (u.st = .clearing → u.reclaim = false → NoDrops s → ∀ obs rows,
      Reaches (.sliceEnd h obs rows) s (fun t =>
        cleared t ∧ last t 28 4 = 3 ∧ last t 27 1 = 0 ∧
        (t.eng.hr.look h).cnt.bistInc = satInc (s.eng.hr.look h).cnt.bistInc 1 ∧
        (t.eng.hr.look h).fenceCause = (s.eng.hr.look h).fenceCause ∧
        (t.eng.hr.look h).mgmtIn = (s.eng.hr.look h).mgmtIn ∧ t.env = s.env ∧ t.eng.jobs = s.eng.jobs ∧
        OtherHr h s t)) ∧
    (u.st = .clearing → u.reclaim = true →
      Reaches (.reclaimRelease h) s (fun t =>
        cleared t ∧ last t 28 4 = 3 ∧ last t 27 1 = 1 ∧
        (t.eng.hr.look h).cnt.bistInc = satInc (s.eng.hr.look h).cnt.bistInc 1 ∧
        (t.eng.hr.look h).cnt.reclaim = satInc (s.eng.hr.look h).cnt.reclaim 1 ∧ t.env = s.env ∧
        t.eng.jobs = s.eng.jobs ∧ t.eng.hed = s.eng.hed ∧ OtherHr h s t))
end

