-- ==== Sys2Proof/Laws/Latches.lean ====
section
/-! SUPPORT. What the operand reuse latches do: a row read is the one used more recently, and a register that was
written is held no more. -/

namespace Sys2Proof.Machine

open Sys2Proof

/-- A hit or a miss leaves the row read in the latch used more recently. -/
theorem Latches.read_recent (x : Latches) (t k : Nat) (b : List Byte) : Latch.holds (x.read t k b).recent t k = true := by
  unfold Latches.read
  split
  · assumption
  · split
    · assumption
    · simp [Latch.holds]

/-- No latch holds a register that was dropped. -/
theorem Latches.drop_holds (x : Latches) (t k : Nat) :
    Latch.holds (x.drop t).recent t k = false ∧ Latch.holds (x.drop t).older t k = false := by
  have h : ∀ l : Option Latch, Latch.holds (l.filter (fun l => l.reg != t)) t k = false := by
    intro l
    cases l with
    | none => rfl
    | some l => by_cases hr : l.reg = t <;> simp [Latch.holds, Option.filter, hr]
  exact ⟨h _, h _⟩

end Sys2Proof.Machine
end

