-- ==== Sys2Proof/Laws/Table.lean ====
section
/-! SUPPORT. Reading a table entry after one has been replaced, changed or made by a function. -/

namespace Sys2Proof

variable {α : Type} {n : Nat} [Inhabited α]

theorem Tab.look_of_lt (t : Tab α n) {i : Nat} (h : i < n) : Tab.look t i = t[i] := by
  simp [Tab.look, h]

theorem Tab.look_of_ge (t : Tab α n) {i : Nat} (h : n ≤ i) : Tab.look t i = default := by
  simp [Tab.look, Nat.not_lt.mpr h]

/-- A replaced entry reads as the new one, and every other entry as before. -/
theorem Tab.look_put (t : Tab α n) (i k : Nat) (x : α) :
    Tab.look (Tab.put t i x) k = if k = i ∧ i < n then x else Tab.look t k := by
  by_cases hi : i < n
  · by_cases hk : k < n
    · by_cases h : k = i
      · subst h; simp [Tab.put, Tab.look, hi]
      · simp [Tab.put, Tab.look, hi, hk, h, Ne.symm h]
    · have h : k ≠ i := by omega
      simp [Tab.put, Tab.look, hi, hk, h]
  · simp [Tab.put, hi]

@[simp] theorem Tab.look_put_same (t : Tab α n) {i : Nat} (h : i < n) (x : α) :
    Tab.look (Tab.put t i x) i = x := by simp [Tab.look_put, h]

@[simp] theorem Tab.look_put_other (t : Tab α n) {i k : Nat} (h : k ≠ i) (x : α) :
    Tab.look (Tab.put t i x) k = Tab.look t k := by simp [Tab.look_put, h]

/-- A changed entry reads as `f` of what it was; a number outside the table changes nothing. -/
theorem Tab.look_upd (t : Tab α n) (i k : Nat) (f : α → α) :
    Tab.look (Tab.upd t i f) k = if k = i ∧ i < n then f (Tab.look t i) else Tab.look t k := by
  rw [Tab.upd, Tab.look_put]

@[simp] theorem Tab.look_upd_same (t : Tab α n) {i : Nat} (h : i < n) (f : α → α) :
    Tab.look (Tab.upd t i f) i = f (Tab.look t i) := by simp [Tab.look_upd, h]

@[simp] theorem Tab.look_upd_other (t : Tab α n) {i k : Nat} (h : k ≠ i) (f : α → α) :
    Tab.look (Tab.upd t i f) k = Tab.look t k := by simp [Tab.look_upd, h]

/-- A property of every entry that `f` keeps is kept by a change. -/
theorem Tab.look_upd_keeps (t : Tab α n) (i k : Nat) (f : α → α) (p : α → Prop)
    (hf : ∀ x, p x → p (f x)) (h : p (Tab.look t k)) : p (Tab.look (Tab.upd t i f) k) := by
  rw [Tab.look_upd]; split <;> rename_i hk
  · exact hf _ (hk.1 ▸ h)
  · exact h

@[simp] theorem Tab.look_ofFn (f : Fin n → α) {i : Nat} (h : i < n) :
    Tab.look (Vector.ofFn f) i = f ⟨i, h⟩ := by simp [Tab.look, h]

@[simp] theorem Tab.look_replicate (x : α) {i : Nat} (h : i < n) :
    Tab.look (Vector.replicate n x) i = x := by simp [Tab.look, h]

@[simp] theorem Tab.look_map {β : Type} [Inhabited β] (t : Tab α n) (f : α → β) {i : Nat} (h : i < n) :
    Tab.look (Vector.map f t) i = f (Tab.look t i) := by simp [Tab.look, h]

/-- Two tables with the same entries are the same. -/
theorem Tab.ext_look (t u : Tab α n) (h : ∀ i, i < n → Tab.look t i = Tab.look u i) : t = u := by
  apply Vector.ext
  intro i hi
  simpa [Tab.look, hi] using h i hi

@[simp] theorem Tab.put_put (t : Tab α n) (i : Nat) (x y : α) :
    Tab.put (Tab.put t i x) i y = Tab.put t i y := by
  apply Tab.ext_look; intro k hk; simp only [Tab.look_put]; split <;> simp_all

@[simp] theorem Tab.upd_upd (t : Tab α n) (i : Nat) (f g : α → α) :
    Tab.upd (Tab.upd t i f) i g = Tab.upd t i (fun x => g (f x)) := by
  apply Tab.ext_look; intro k hk; simp only [Tab.look_upd]; split <;> simp_all

/-- An entry changed into itself. -/
theorem Tab.upd_id (t : Tab α n) (i : Nat) (f : α → α) (h : f (Tab.look t i) = Tab.look t i) :
    Tab.upd t i f = t := by
  apply Tab.ext_look; intro k hk; rw [Tab.look_upd]; split <;> simp_all

end Sys2Proof
end

