-- ==== Sys2Proof/Laws/State.lean ====
section
/-! SUPPORT. What each update of the state leaves alone, and what it makes of the part it changes: one simp rule
for every field and update. -/

namespace Sys2Proof.Machine

open Sys2Proof

/-! ### The state -/

@[simp] theorem State.onEng_fields (s : State) (e : Eng) :
    (s.onEng e).eng = e ∧ (s.onEng e).env = s.env ∧ (s.onEng e).pending = s.pending := ⟨rfl, rfl, rfl⟩

@[simp] theorem State.onEnv_fields (s : State) (v : Env) :
    (s.onEnv v).env = v ∧ (s.onEnv v).eng = s.eng ∧ (s.onEnv v).pending = s.pending := ⟨rfl, rfl, rfl⟩

@[simp] theorem State.onEng_onEng (s : State) (e f : Eng) : (s.onEng e).onEng f = s.onEng f := rfl

@[simp] theorem State.onEng_eng (s : State) : s.onEng s.eng = s := rfl

@[simp] theorem State.onEnv_env (s : State) : s.onEnv s.env = s := rfl

@[simp] theorem State.onRegs_fields (s : State) (f : Regs → Regs) :
    (s.onRegs f).eng = s.eng ∧ (s.onRegs f).pending = s.pending ∧ (s.onRegs f).env.cfg = s.env.cfg ∧
    (s.onRegs f).env.regs = f s.env.regs ∧ (s.onRegs f).env.sec = s.env.sec ∧ (s.onRegs f).env.ao = s.env.ao ∧
    (s.onRegs f).env.rep = s.env.rep ∧ (s.onRegs f).env.pins = s.env.pins ∧ (s.onRegs f).env.wrap = s.env.wrap ∧
    (s.onRegs f).env.rdata = s.env.rdata :=
  ⟨rfl, rfl, rfl, rfl, rfl, rfl, rfl, rfl, rfl, rfl⟩

@[simp] theorem State.onRep_fields (s : State) (f : Rep → Rep) :
    (s.onRep f).eng = s.eng ∧ (s.onRep f).pending = s.pending ∧ (s.onRep f).env.cfg = s.env.cfg ∧
    (s.onRep f).env.regs = s.env.regs ∧ (s.onRep f).env.sec = s.env.sec ∧ (s.onRep f).env.ao = s.env.ao ∧
    (s.onRep f).env.rep = f s.env.rep ∧ (s.onRep f).env.pins = s.env.pins ∧ (s.onRep f).env.wrap = s.env.wrap ∧
    (s.onRep f).env.rdata = s.env.rdata :=
  ⟨rfl, rfl, rfl, rfl, rfl, rfl, rfl, rfl, rfl, rfl⟩

@[simp] theorem State.onPins_fields (s : State) (f : Pins → Pins) :
    (s.onPins f).eng = s.eng ∧ (s.onPins f).pending = s.pending ∧ (s.onPins f).env.cfg = s.env.cfg ∧
    (s.onPins f).env.regs = s.env.regs ∧ (s.onPins f).env.sec = s.env.sec ∧ (s.onPins f).env.ao = s.env.ao ∧
    (s.onPins f).env.rep = s.env.rep ∧ (s.onPins f).env.pins = f s.env.pins ∧ (s.onPins f).env.wrap = s.env.wrap ∧
    (s.onPins f).env.rdata = s.env.rdata :=
  ⟨rfl, rfl, rfl, rfl, rfl, rfl, rfl, rfl, rfl, rfl⟩

@[simp] theorem State.onWrap_fields (s : State) (f : Wrapper → Wrapper) :
    (s.onWrap f).eng = s.eng ∧ (s.onWrap f).pending = s.pending ∧ (s.onWrap f).env.cfg = s.env.cfg ∧
    (s.onWrap f).env.regs = s.env.regs ∧ (s.onWrap f).env.sec = s.env.sec ∧ (s.onWrap f).env.ao = s.env.ao ∧
    (s.onWrap f).env.rep = s.env.rep ∧ (s.onWrap f).env.pins = s.env.pins ∧ (s.onWrap f).env.wrap = f s.env.wrap ∧
    (s.onWrap f).env.rdata = s.env.rdata :=
  ⟨rfl, rfl, rfl, rfl, rfl, rfl, rfl, rfl, rfl, rfl⟩

/-! ### The fc-domain state -/

@[simp] theorem Eng.onHr_fields (e : Eng) (h : Nat) (f : Hedgerow → Hedgerow) :
    (e.onHr h f).phase = e.phase ∧ (e.onHr h f).stop = e.stop ∧ (e.onHr h f).left = e.left ∧
    (e.onHr h f).privetOn = e.privetOn ∧ (e.onHr h f).errStatus = e.errStatus ∧ (e.onHr h f).errHr = e.errHr ∧
    (e.onHr h f).cnt = e.cnt ∧ (e.onHr h f).hed = e.hed ∧ (e.onHr h f).jobs = e.jobs ∧ (e.onHr h f).pl = e.pl ∧
    (e.onHr h f).hr = e.hr.upd h f ∧ (e.onHr h f).mem = e.mem ∧ (e.onHr h f).dom = e.dom ∧
    (e.onHr h f).phVal = e.phVal ∧ (e.onHr h f).phWrap = e.phWrap ∧ (e.onHr h f).iwp = e.iwp ∧
    (e.onHr h f).iface = e.iface ∧ (e.onHr h f).wipe = e.wipe ∧ (e.onHr h f).zeroize = e.zeroize ∧
    (e.onHr h f).scanReady = e.scanReady ∧ (e.onHr h f).pvSlots = e.pvSlots ∧ (e.onHr h f).evts = e.evts ∧
    (e.onHr h f).netData = e.netData ∧ (e.onHr h f).ctl = e.ctl ∧ (e.onHr h f).bist = e.bist ∧
    (e.onHr h f).tie = e.tie ∧ (e.onHr h f).cycle = e.cycle ∧ (e.onHr h f).stamp = e.stamp ∧
    (e.onHr h f).free = e.free :=
  ⟨rfl, rfl, rfl, rfl, rfl, rfl, rfl, rfl, rfl, rfl, rfl, rfl, rfl, rfl, rfl, rfl, rfl, rfl, rfl, rfl, rfl, rfl,
   rfl, rfl, rfl, rfl, rfl, rfl, rfl⟩

@[simp] theorem Eng.onPl_fields (e : Eng) (g : Nat) (f : Pleacher → Pleacher) :
    (e.onPl g f).phase = e.phase ∧ (e.onPl g f).stop = e.stop ∧ (e.onPl g f).left = e.left ∧
    (e.onPl g f).privetOn = e.privetOn ∧ (e.onPl g f).errStatus = e.errStatus ∧ (e.onPl g f).errHr = e.errHr ∧
    (e.onPl g f).cnt = e.cnt ∧ (e.onPl g f).hed = e.hed ∧ (e.onPl g f).jobs = e.jobs ∧
    (e.onPl g f).pl = e.pl.upd g f ∧ (e.onPl g f).hr = e.hr ∧ (e.onPl g f).mem = e.mem ∧ (e.onPl g f).dom = e.dom ∧
    (e.onPl g f).phVal = e.phVal ∧ (e.onPl g f).phWrap = e.phWrap ∧ (e.onPl g f).iwp = e.iwp ∧
    (e.onPl g f).iface = e.iface ∧ (e.onPl g f).wipe = e.wipe ∧ (e.onPl g f).zeroize = e.zeroize ∧
    (e.onPl g f).scanReady = e.scanReady ∧ (e.onPl g f).pvSlots = e.pvSlots ∧ (e.onPl g f).evts = e.evts ∧
    (e.onPl g f).netData = e.netData ∧ (e.onPl g f).ctl = e.ctl ∧ (e.onPl g f).bist = e.bist ∧
    (e.onPl g f).tie = e.tie ∧ (e.onPl g f).cycle = e.cycle ∧ (e.onPl g f).stamp = e.stamp ∧
    (e.onPl g f).free = e.free :=
  ⟨rfl, rfl, rfl, rfl, rfl, rfl, rfl, rfl, rfl, rfl, rfl, rfl, rfl, rfl, rfl, rfl, rfl, rfl, rfl, rfl, rfl, rfl,
   rfl, rfl, rfl, rfl, rfl, rfl, rfl⟩

@[simp] theorem Eng.onDom_fields (e : Eng) (d : Nat) (f : Domain → Domain) :
    (e.onDom d f).phase = e.phase ∧ (e.onDom d f).stop = e.stop ∧ (e.onDom d f).left = e.left ∧
    (e.onDom d f).privetOn = e.privetOn ∧ (e.onDom d f).errStatus = e.errStatus ∧ (e.onDom d f).errHr = e.errHr ∧
    (e.onDom d f).cnt = e.cnt ∧ (e.onDom d f).hed = e.hed ∧ (e.onDom d f).jobs = e.jobs ∧ (e.onDom d f).pl = e.pl ∧
    (e.onDom d f).hr = e.hr ∧ (e.onDom d f).mem = e.mem ∧ (e.onDom d f).dom = e.dom.upd d f ∧
    (e.onDom d f).phVal = e.phVal ∧ (e.onDom d f).phWrap = e.phWrap ∧ (e.onDom d f).iwp = e.iwp ∧
    (e.onDom d f).iface = e.iface ∧ (e.onDom d f).wipe = e.wipe ∧ (e.onDom d f).zeroize = e.zeroize ∧
    (e.onDom d f).scanReady = e.scanReady ∧ (e.onDom d f).pvSlots = e.pvSlots ∧ (e.onDom d f).evts = e.evts ∧
    (e.onDom d f).netData = e.netData ∧ (e.onDom d f).ctl = e.ctl ∧ (e.onDom d f).bist = e.bist ∧
    (e.onDom d f).tie = e.tie ∧ (e.onDom d f).cycle = e.cycle ∧ (e.onDom d f).stamp = e.stamp ∧
    (e.onDom d f).free = e.free :=
  ⟨rfl, rfl, rfl, rfl, rfl, rfl, rfl, rfl, rfl, rfl, rfl, rfl, rfl, rfl, rfl, rfl, rfl, rfl, rfl, rfl, rfl, rfl,
   rfl, rfl, rfl, rfl, rfl, rfl, rfl⟩

@[simp] theorem Eng.onHed_fields (e : Eng) (f : Hedger → Hedger) :
    (e.onHed f).phase = e.phase ∧ (e.onHed f).stop = e.stop ∧ (e.onHed f).left = e.left ∧
    (e.onHed f).privetOn = e.privetOn ∧ (e.onHed f).errStatus = e.errStatus ∧ (e.onHed f).errHr = e.errHr ∧
    (e.onHed f).cnt = e.cnt ∧ (e.onHed f).hed = f e.hed ∧ (e.onHed f).jobs = e.jobs ∧ (e.onHed f).pl = e.pl ∧
    (e.onHed f).hr = e.hr ∧ (e.onHed f).mem = e.mem ∧ (e.onHed f).dom = e.dom ∧ (e.onHed f).phVal = e.phVal ∧
    (e.onHed f).phWrap = e.phWrap ∧ (e.onHed f).iwp = e.iwp ∧ (e.onHed f).iface = e.iface ∧
    (e.onHed f).wipe = e.wipe ∧ (e.onHed f).zeroize = e.zeroize ∧ (e.onHed f).scanReady = e.scanReady ∧
    (e.onHed f).pvSlots = e.pvSlots ∧ (e.onHed f).evts = e.evts ∧ (e.onHed f).netData = e.netData ∧
    (e.onHed f).ctl = e.ctl ∧ (e.onHed f).bist = e.bist ∧ (e.onHed f).tie = e.tie ∧ (e.onHed f).cycle = e.cycle ∧
    (e.onHed f).stamp = e.stamp ∧ (e.onHed f).free = e.free :=
  ⟨rfl, rfl, rfl, rfl, rfl, rfl, rfl, rfl, rfl, rfl, rfl, rfl, rfl, rfl, rfl, rfl, rfl, rfl, rfl, rfl, rfl, rfl,
   rfl, rfl, rfl, rfl, rfl, rfl, rfl⟩

@[simp] theorem Eng.onCnt_fields (e : Eng) (f : BlkCnt → BlkCnt) :
    (e.onCnt f).phase = e.phase ∧ (e.onCnt f).stop = e.stop ∧ (e.onCnt f).left = e.left ∧
    (e.onCnt f).privetOn = e.privetOn ∧ (e.onCnt f).errStatus = e.errStatus ∧ (e.onCnt f).errHr = e.errHr ∧
    (e.onCnt f).cnt = f e.cnt ∧ (e.onCnt f).hed = e.hed ∧ (e.onCnt f).jobs = e.jobs ∧ (e.onCnt f).pl = e.pl ∧
    (e.onCnt f).hr = e.hr ∧ (e.onCnt f).mem = e.mem ∧ (e.onCnt f).dom = e.dom ∧ (e.onCnt f).phVal = e.phVal ∧
    (e.onCnt f).phWrap = e.phWrap ∧ (e.onCnt f).iwp = e.iwp ∧ (e.onCnt f).iface = e.iface ∧
    (e.onCnt f).wipe = e.wipe ∧ (e.onCnt f).zeroize = e.zeroize ∧ (e.onCnt f).scanReady = e.scanReady ∧
    (e.onCnt f).pvSlots = e.pvSlots ∧ (e.onCnt f).evts = e.evts ∧ (e.onCnt f).netData = e.netData ∧
    (e.onCnt f).ctl = e.ctl ∧ (e.onCnt f).bist = e.bist ∧ (e.onCnt f).tie = e.tie ∧ (e.onCnt f).cycle = e.cycle ∧
    (e.onCnt f).stamp = e.stamp ∧ (e.onCnt f).free = e.free :=
  ⟨rfl, rfl, rfl, rfl, rfl, rfl, rfl, rfl, rfl, rfl, rfl, rfl, rfl, rfl, rfl, rfl, rfl, rfl, rfl, rfl, rfl, rfl,
   rfl, rfl, rfl, rfl, rfl, rfl, rfl⟩

@[simp] theorem Eng.onMem_fields (e : Eng) (f : Mems → Mems) :
    (e.onMem f).phase = e.phase ∧ (e.onMem f).stop = e.stop ∧ (e.onMem f).left = e.left ∧
    (e.onMem f).privetOn = e.privetOn ∧ (e.onMem f).errStatus = e.errStatus ∧ (e.onMem f).errHr = e.errHr ∧
    (e.onMem f).cnt = e.cnt ∧ (e.onMem f).hed = e.hed ∧ (e.onMem f).jobs = e.jobs ∧ (e.onMem f).pl = e.pl ∧
    (e.onMem f).hr = e.hr ∧ (e.onMem f).mem = f e.mem ∧ (e.onMem f).dom = e.dom ∧ (e.onMem f).phVal = e.phVal ∧
    (e.onMem f).phWrap = e.phWrap ∧ (e.onMem f).iwp = e.iwp ∧ (e.onMem f).iface = e.iface ∧
    (e.onMem f).wipe = e.wipe ∧ (e.onMem f).zeroize = e.zeroize ∧ (e.onMem f).scanReady = e.scanReady ∧
    (e.onMem f).pvSlots = e.pvSlots ∧ (e.onMem f).evts = e.evts ∧ (e.onMem f).netData = e.netData ∧
    (e.onMem f).ctl = e.ctl ∧ (e.onMem f).bist = e.bist ∧ (e.onMem f).tie = e.tie ∧ (e.onMem f).cycle = e.cycle ∧
    (e.onMem f).stamp = e.stamp ∧ (e.onMem f).free = e.free :=
  ⟨rfl, rfl, rfl, rfl, rfl, rfl, rfl, rfl, rfl, rfl, rfl, rfl, rfl, rfl, rfl, rfl, rfl, rfl, rfl, rfl, rfl, rfl,
   rfl, rfl, rfl, rfl, rfl, rfl, rfl⟩

@[simp] theorem Eng.onIface_fields (e : Eng) (f : Iface → Iface) :
    (e.onIface f).phase = e.phase ∧ (e.onIface f).stop = e.stop ∧ (e.onIface f).left = e.left ∧
    (e.onIface f).privetOn = e.privetOn ∧ (e.onIface f).errStatus = e.errStatus ∧ (e.onIface f).errHr = e.errHr ∧
    (e.onIface f).cnt = e.cnt ∧ (e.onIface f).hed = e.hed ∧ (e.onIface f).jobs = e.jobs ∧ (e.onIface f).pl = e.pl ∧
    (e.onIface f).hr = e.hr ∧ (e.onIface f).mem = e.mem ∧ (e.onIface f).dom = e.dom ∧ (e.onIface f).phVal = e.phVal ∧
    (e.onIface f).phWrap = e.phWrap ∧ (e.onIface f).iwp = e.iwp ∧ (e.onIface f).iface = f e.iface ∧
    (e.onIface f).wipe = e.wipe ∧ (e.onIface f).zeroize = e.zeroize ∧ (e.onIface f).scanReady = e.scanReady ∧
    (e.onIface f).pvSlots = e.pvSlots ∧ (e.onIface f).evts = e.evts ∧ (e.onIface f).netData = e.netData ∧
    (e.onIface f).ctl = e.ctl ∧ (e.onIface f).bist = e.bist ∧ (e.onIface f).tie = e.tie ∧
    (e.onIface f).cycle = e.cycle ∧ (e.onIface f).stamp = e.stamp ∧ (e.onIface f).free = e.free :=
  ⟨rfl, rfl, rfl, rfl, rfl, rfl, rfl, rfl, rfl, rfl, rfl, rfl, rfl, rfl, rfl, rfl, rfl, rfl, rfl, rfl, rfl, rfl,
   rfl, rfl, rfl, rfl, rfl, rfl, rfl⟩

@[simp] theorem Eng.onJob_fields (e : Eng) (k : Nat × Nat) (f : Job → Job) :
    (e.onJob k f).phase = e.phase ∧ (e.onJob k f).stop = e.stop ∧ (e.onJob k f).left = e.left ∧
    (e.onJob k f).privetOn = e.privetOn ∧ (e.onJob k f).errStatus = e.errStatus ∧ (e.onJob k f).errHr = e.errHr ∧
    (e.onJob k f).cnt = e.cnt ∧ (e.onJob k f).hed = e.hed ∧
    (e.onJob k f).jobs = e.jobs.map (fun j => if j.isAt k then f j else j) ∧ (e.onJob k f).pl = e.pl ∧
    (e.onJob k f).hr = e.hr ∧ (e.onJob k f).mem = e.mem ∧ (e.onJob k f).dom = e.dom ∧ (e.onJob k f).phVal = e.phVal ∧
    (e.onJob k f).phWrap = e.phWrap ∧ (e.onJob k f).iwp = e.iwp ∧ (e.onJob k f).iface = e.iface ∧
    (e.onJob k f).wipe = e.wipe ∧ (e.onJob k f).zeroize = e.zeroize ∧ (e.onJob k f).scanReady = e.scanReady ∧
    (e.onJob k f).pvSlots = e.pvSlots ∧ (e.onJob k f).evts = e.evts ∧ (e.onJob k f).netData = e.netData ∧
    (e.onJob k f).ctl = e.ctl ∧ (e.onJob k f).bist = e.bist ∧ (e.onJob k f).tie = e.tie ∧
    (e.onJob k f).cycle = e.cycle ∧ (e.onJob k f).stamp = e.stamp ∧ (e.onJob k f).free = e.free :=
  ⟨rfl, rfl, rfl, rfl, rfl, rfl, rfl, rfl, rfl, rfl, rfl, rfl, rfl, rfl, rfl, rfl, rfl, rfl, rfl, rfl, rfl, rfl,
   rfl, rfl, rfl, rfl, rfl, rfl, rfl⟩

@[simp] theorem Eng.err_fields (e : Eng) (i : Nat) :
    (e.err i).phase = e.phase ∧ (e.err i).stop = e.stop ∧ (e.err i).left = e.left ∧ (e.err i).privetOn = e.privetOn ∧
    (e.err i).errStatus = e.errStatus ||| BitVec.ofNat 32 (2 ^ i) ∧ (e.err i).errHr = e.errHr ∧
    (e.err i).cnt = e.cnt ∧ (e.err i).hed = e.hed ∧ (e.err i).jobs = e.jobs ∧ (e.err i).pl = e.pl ∧
    (e.err i).hr = e.hr ∧ (e.err i).mem = e.mem ∧ (e.err i).dom = e.dom ∧ (e.err i).phVal = e.phVal ∧
    (e.err i).phWrap = e.phWrap ∧ (e.err i).iwp = e.iwp ∧ (e.err i).iface = e.iface ∧ (e.err i).wipe = e.wipe ∧
    (e.err i).zeroize = e.zeroize ∧ (e.err i).scanReady = e.scanReady ∧ (e.err i).pvSlots = e.pvSlots ∧
    (e.err i).evts = e.evts ∧ (e.err i).netData = e.netData ∧ (e.err i).ctl = e.ctl ∧ (e.err i).bist = e.bist ∧
    (e.err i).tie = e.tie ∧ (e.err i).cycle = e.cycle ∧ (e.err i).stamp = e.stamp ∧ (e.err i).free = e.free :=
  ⟨rfl, rfl, rfl, rfl, rfl, rfl, rfl, rfl, rfl, rfl, rfl, rfl, rfl, rfl, rfl, rfl, rfl, rfl, rfl, rfl, rfl, rfl,
   rfl, rfl, rfl, rfl, rfl, rfl, rfl⟩

@[simp] theorem Eng.errOf_fields (e : Eng) (h : Nat) :
    (e.errOf h).phase = e.phase ∧ (e.errOf h).stop = e.stop ∧ (e.errOf h).left = e.left ∧
    (e.errOf h).privetOn = e.privetOn ∧ (e.errOf h).errStatus = e.errStatus ∧
    (e.errOf h).errHr = e.errHr ||| BitVec.ofNat 32 (2 ^ h) ∧ (e.errOf h).cnt = e.cnt ∧ (e.errOf h).hed = e.hed ∧
    (e.errOf h).jobs = e.jobs ∧ (e.errOf h).pl = e.pl ∧ (e.errOf h).hr = e.hr ∧ (e.errOf h).mem = e.mem ∧
    (e.errOf h).dom = e.dom ∧ (e.errOf h).phVal = e.phVal ∧ (e.errOf h).phWrap = e.phWrap ∧ (e.errOf h).iwp = e.iwp ∧
    (e.errOf h).iface = e.iface ∧ (e.errOf h).wipe = e.wipe ∧ (e.errOf h).zeroize = e.zeroize ∧
    (e.errOf h).scanReady = e.scanReady ∧ (e.errOf h).pvSlots = e.pvSlots ∧ (e.errOf h).evts = e.evts ∧
    (e.errOf h).netData = e.netData ∧ (e.errOf h).ctl = e.ctl ∧ (e.errOf h).bist = e.bist ∧ (e.errOf h).tie = e.tie ∧
    (e.errOf h).cycle = e.cycle ∧ (e.errOf h).stamp = e.stamp ∧ (e.errOf h).free = e.free :=
  ⟨rfl, rfl, rfl, rfl, rfl, rfl, rfl, rfl, rfl, rfl, rfl, rfl, rfl, rfl, rfl, rfl, rfl, rfl, rfl, rfl, rfl, rfl,
   rfl, rfl, rfl, rfl, rfl, rfl, rfl⟩

@[simp] theorem Eng.draw_fields (e : Eng) (n : Nat) :
    (e.draw n).phase = e.phase ∧ (e.draw n).stop = e.stop ∧ (e.draw n).left = e.left ∧
    (e.draw n).privetOn = e.privetOn ∧ (e.draw n).errStatus = e.errStatus ∧ (e.draw n).errHr = e.errHr ∧
    (e.draw n).cnt = e.cnt ∧ (e.draw n).hed = e.hed ∧ (e.draw n).jobs = e.jobs ∧ (e.draw n).pl = e.pl ∧
    (e.draw n).hr = e.hr ∧ (e.draw n).mem = e.mem ∧ (e.draw n).dom = e.dom ∧ (e.draw n).phVal = e.phVal ∧
    (e.draw n).phWrap = e.phWrap ∧ (e.draw n).iwp = e.iwp ∧ (e.draw n).iface = e.iface ∧ (e.draw n).wipe = e.wipe ∧
    (e.draw n).zeroize = e.zeroize ∧ (e.draw n).scanReady = e.scanReady ∧ (e.draw n).pvSlots = e.pvSlots ∧
    (e.draw n).evts = e.evts ∧ (e.draw n).netData = e.netData ∧ (e.draw n).ctl = e.ctl ∧ (e.draw n).bist = e.bist ∧
    (e.draw n).tie = e.tie ∧ (e.draw n).cycle = e.cycle ∧ (e.draw n).stamp = e.stamp ∧
    (e.draw n).free = e.free + n :=
  ⟨rfl, rfl, rfl, rfl, rfl, rfl, rfl, rfl, rfl, rfl, rfl, rfl, rfl, rfl, rfl, rfl, rfl, rfl, rfl, rfl, rfl, rfl,
   rfl, rfl, rfl, rfl, rfl, rfl, rfl⟩

/-! ### Updates that are one of these -/

@[simp] theorem Eng.onHrCnt_eq (e : Eng) (h : Nat) (f : HrCnt → HrCnt) :
    e.onHrCnt h f = e.onHr h (fun x => { x with cnt := f x.cnt }) := rfl

@[simp] theorem Eng.onCtx_eq (e : Eng) (g : Nat) (f : Ctx → Ctx) :
    e.onCtx g f = e.onPl g (fun p => { p with ctx := f p.ctx }) := rfl

@[simp] theorem Eng.onTick_eq (e : Eng) (f : Tick → Tick) :
    e.onTick f = e.onHed (fun h => { h with tick := h.tick.map f }) := rfl

@[simp] theorem Eng.onRing_eq (e : Eng) (n : Nat) (f : Ring → Ring) :
    e.onRing n f = e.onHed (fun h => { h with rings := putRing h.rings (f (h.ring n)) }) := rfl

@[simp] theorem Eng.cfpAsk_eq (e : Eng) (x : CfpX) :
    e.cfpAsk x = e.onHed (fun h => { h with cfpWant := h.cfpWant ++ [x] }) := rfl

@[simp] theorem Eng.enqueue_eq (e : Eng) (k : Nat × Nat) (rs : List Req) :
    e.enqueue k rs = e.onJob k (fun j => { j with xq := j.xq ++ rs }) := rfl

@[simp] theorem Eng.onPl_onPl (e : Eng) (g : Nat) (f k : Pleacher → Pleacher) :
    (e.onPl g f).onPl g k = e.onPl g (fun p => k (f p)) := by simp [Eng.onPl]

@[simp] theorem Eng.onHr_onHr (e : Eng) (h : Nat) (f k : Hedgerow → Hedgerow) :
    (e.onHr h f).onHr h k = e.onHr h (fun p => k (f p)) := by simp [Eng.onHr]

@[simp] theorem Eng.onDom_onDom (e : Eng) (d : Nat) (f k : Domain → Domain) :
    (e.onDom d f).onDom d k = e.onDom d (fun p => k (f p)) := by simp [Eng.onDom]

end Sys2Proof.Machine
end

