-- ==== Sys2Proof/Laws/Memory.lean ====
section
/-! SUPPORT. The laws of the memories: a byte written reads back, every other byte is kept, and every
operation keeps the canonical form. -/

namespace Sys2Proof.Machine

open Sys2Proof

/-! ### One list -/

theorem Mem.wf_nil : Mem.wf [] := ⟨List.Pairwise.nil, by simp⟩

/-- A canonical list's tail is canonical, and its head stands below every address of the tail. -/
theorem Mem.wf_cons {c : Host.Cell} {m : Mem} :
    Mem.wf (c :: m) ↔ (∀ d ∈ m, c.1 < d.1) ∧ c.2 ≠ 0 ∧ Mem.wf m := by
  simp only [Mem.wf, List.pairwise_cons, List.mem_cons, forall_eq_or_imp]
  constructor
  · rintro ⟨⟨h1, h2⟩, h3, h4⟩; exact ⟨h1, h3, h2, h4⟩
  · rintro ⟨h1, h2, h3, h4⟩; exact ⟨⟨h1, h3⟩, h2, h4⟩

/-- An address below every listed one reads 0. -/
theorem Mem.byte_of_lt {m : Mem} {a : Nat} (h : ∀ d ∈ m, a < d.1) : Mem.byte m a = 0 := by
  induction m with
  | nil => rfl
  | cons c r ih =>
    obtain ⟨k, y⟩ := c
    have hk : a < k := h (k, y) (by simp)
    have hne : k ≠ a := by omega
    simp only [Mem.byte, hne, if_false]
    exact ih (fun d hd => h d (by simp [hd]))

/-- Every byte but the one written is kept. -/
theorem Mem.byte_put_other (m : Mem) {a b : Nat} (x : Byte) (h : b ≠ a) :
    Mem.byte (Mem.put m a x) b = Mem.byte m b := by
  induction m with
  | nil => simp only [Mem.put]; split <;> simp [Mem.byte, Ne.symm h]
  | cons c r ih =>
    obtain ⟨k, y⟩ := c
    simp only [Mem.put]
    split
    · split <;> simp [Mem.byte, Ne.symm h]
    · split
      · rename_i hk; subst hk
        split <;> simp [Mem.byte, Ne.symm h]
      · simp only [Mem.byte, ih]

/-- The byte written reads back. -/
theorem Mem.byte_put_same {m : Mem} (hm : m.wf) (a : Nat) (x : Byte) :
    Mem.byte (Mem.put m a x) a = x := by
  induction m with
  | nil => simp only [Mem.put]; split <;> simp_all [Mem.byte]
  | cons c r ih =>
    obtain ⟨k, y⟩ := c
    obtain ⟨h1, h2, h3⟩ := Mem.wf_cons.mp hm
    simp only [Mem.put]
    split
    · rename_i hk
      split
      · rename_i hx; subst hx
        exact Mem.byte_of_lt (by
          intro d hd
          rcases List.mem_cons.mp hd with rfl | hd
          · exact hk
          · exact Nat.lt_trans hk (h1 d hd))
      · simp [Mem.byte]
    · split
      · rename_i hk; subst hk
        split
        · rename_i hx; subst hx; exact Mem.byte_of_lt h1
        · simp [Mem.byte]
      · rename_i hk
        have : k ≠ a := fun h => hk h.symm
        simp only [Mem.byte, this, if_false]
        exact ih h3

/-- Reading any byte after one has been written. -/
theorem Mem.byte_put {m : Mem} (hm : m.wf) (a b : Nat) (x : Byte) :
    Mem.byte (Mem.put m a x) b = if b = a then x else Mem.byte m b := by
  split
  · rename_i h; subst h; exact Mem.byte_put_same hm b x
  · rename_i h; exact Mem.byte_put_other m x h

theorem Mem.mem_put {m : Mem} {a : Nat} {x : Byte} {d : Host.Cell} (h : d ∈ Mem.put m a x) :
    d = (a, x) ∨ d ∈ m := by
  induction m with
  | nil => simp only [Mem.put] at h; split at h <;> simp_all
  | cons c r ih =>
    obtain ⟨k, y⟩ := c
    simp only [Mem.put] at h
    split at h
    · split at h <;> simp_all
    · split at h
      · split at h
        · simp [h]
        · simp only [List.mem_cons] at h ⊢
          rcases h with h | h
          · exact .inl h
          · exact .inr (.inr h)
      · simp only [List.mem_cons] at h ⊢
        rcases h with h | h
        · exact .inr (.inl h)
        · exact (ih h).imp id .inr

/-- A write keeps the canonical form. -/
theorem Mem.put_wf {m : Mem} (hm : m.wf) (a : Nat) (x : Byte) : (Mem.put m a x).wf := by
  induction m with
  | nil =>
    simp only [Mem.put]; split
    · exact Mem.wf_nil
    · rename_i hx; exact Mem.wf_cons.mpr ⟨by simp, hx, Mem.wf_nil⟩
  | cons c r ih =>
    obtain ⟨k, y⟩ := c
    obtain ⟨h1, h2, h3⟩ := Mem.wf_cons.mp hm
    simp only [Mem.put]
    split
    · rename_i hk
      split
      · exact hm
      · rename_i hx
        refine Mem.wf_cons.mpr ⟨?_, hx, hm⟩
        intro d hd
        rcases List.mem_cons.mp hd with rfl | hd
        · exact hk
        · exact Nat.lt_trans hk (h1 d hd)
    · split
      · rename_i hk; subst hk
        split
        · exact h3
        · rename_i hx; exact Mem.wf_cons.mpr ⟨h1, hx, h3⟩
      · rename_i h4 h5
        refine Mem.wf_cons.mpr ⟨?_, h2, ih h3⟩
        intro d hd
        rcases Mem.mem_put hd with rfl | hd
        · have : ¬ a < k := h4
          have : a ≠ k := h5
          show k < a
          omega
        · exact h1 d hd

theorem Mem.putBytes_wf {m : Mem} (hm : m.wf) (a : Nat) (bs : List Byte) : (Mem.putBytes m a bs).wf := by
  induction bs generalizing m a with
  | nil => exact hm
  | cons x r ih => exact ih (Mem.put_wf hm a x) (a + 1)

theorem Mem.clear_wf {m : Mem} (hm : m.wf) (a n : Nat) : (Mem.clear m a n).wf :=
  ⟨hm.1.filter _, fun c hc => hm.2 c (List.mem_filter.mp hc).1⟩

/-- Bytes outside a range written are kept. -/
theorem Mem.byte_putBytes_other (m : Mem) {a b : Nat} (bs : List Byte) (h : b < a ∨ a + bs.length ≤ b) :
    Mem.byte (Mem.putBytes m a bs) b = Mem.byte m b := by
  induction bs generalizing m a with
  | nil => rfl
  | cons x r ih =>
    simp only [List.length_cons] at h
    rw [Mem.putBytes, ih _ (by omega), Mem.byte_put_other _ _ (by omega)]

/-- Bytes of a range written read back. -/
theorem Mem.byte_putBytes_same {m : Mem} (hm : m.wf) (a : Nat) (bs : List Byte) {i : Nat} (h : i < bs.length) :
    Mem.byte (Mem.putBytes m a bs) (a + i) = bs[i] := by
  induction bs generalizing m a i with
  | nil => simp at h
  | cons x r ih =>
    rw [Mem.putBytes]
    cases i with
    | zero => rw [Mem.byte_putBytes_other _ _ (by omega)]; simpa using Mem.byte_put_same hm a x
    | succ i =>
      have := ih (Mem.put_wf hm a x) (a + 1) (i := i) (by simpa using h)
      rw [show a + (i + 1) = a + 1 + i by omega]; simpa using this

/-- A cleared range reads 0, every other byte is kept. -/
theorem Mem.byte_clear (m : Mem) (a n b : Nat) :
    Mem.byte (Mem.clear m a n) b = if a ≤ b ∧ b < a + n then 0 else Mem.byte m b := by
  induction m with
  | nil => simp [Mem.clear, Mem.byte]
  | cons c r ih =>
    obtain ⟨k, y⟩ := c
    by_cases hk : k < a ∨ a + n ≤ k
    · have : Mem.clear ((k, y) :: r) a n = (k, y) :: Mem.clear r a n := by simp [Mem.clear, hk]
      rw [this, Mem.byte, ih]
      by_cases h : k = b
      · have hb : ¬(a ≤ b ∧ b < a + n) := by omega
        simp [h, hb, Mem.byte]
      · simp [h, Mem.byte]
    · have : Mem.clear ((k, y) :: r) a n = Mem.clear r a n := by simp [Mem.clear, hk]
      rw [this, ih, Mem.byte]
      by_cases h : k = b
      · have hb : a ≤ b ∧ b < a + n := by omega
        simp [hb]
      · simp [h]

/-! ### The memories of the block -/

/-- The three lists are canonical. -/
def Mems.wf (m : Mems) : Prop := m.bank.wf ∧ m.leaf.wf ∧ m.privet.wf

theorem Mems.put_wf {m : Mems} (hm : m.wf) (i : Inst) (a : Nat) (x : Byte) : (m.put i a x).wf := by
  obtain ⟨h1, h2, h3⟩ := hm
  cases i with
  | host => exact ⟨h1, h2, h3⟩
  | bank h => exact ⟨Mem.put_wf h1 _ _, h2, h3⟩
  | leaf g =>
    simp only [Mems.put]
    split
    · exact ⟨h1, Mem.put_wf h2 _ _, h3⟩
    · exact ⟨h1, h2, h3⟩
  | privet => exact ⟨h1, h2, Mem.put_wf h3 _ _⟩

theorem Mems.putBytes_wf {m : Mems} (hm : m.wf) (i : Inst) (a : Nat) (bs : List Byte) : (m.putBytes i a bs).wf := by
  induction bs generalizing m a with
  | nil => exact hm
  | cons x r ih => exact ih (Mems.put_wf hm i a x) (a + 1)

theorem Mems.putWord_wf {m : Mems} (hm : m.wf) (i : Inst) (a : Nat) (x : W32) : (m.putWord i a x).wf :=
  Mems.putBytes_wf hm i a _

theorem Mems.clearLeaf_wf {m : Mems} (hm : m.wf) (g : Nat) : (m.clearLeaf g).wf :=
  ⟨hm.1, Mem.clear_wf hm.2.1 _ _, hm.2.2⟩

theorem Mems.clearBank_wf {m : Mems} (hm : m.wf) (h : Nat) : (m.clearBank h).wf :=
  ⟨Mem.clear_wf hm.1 _ _, hm.2.1, hm.2.2⟩

/-- A byte of a hedge bank written is the one byte that changes. -/
theorem Mems.byte_put_bank {m : Mems} (hm : m.wf) (h a : Nat) (x : Byte) (i : Inst) (b : Nat) :
    (m.put (.bank h) a x).byte i b =
      if i = .bank h ∧ b % 2 ^ 20 = a % 2 ^ 20 then x else m.byte i b := by
  cases i with
  | bank k =>
    simp only [Mems.put, Mems.byte, Mem.byte_put hm.1, bankKey, Inst.bank.injEq]
    congr 1
    apply propext
    constructor
    · intro h1; omega
    · rintro ⟨rfl, h2⟩; rw [h2]
  | _ => simp [Mems.put, Mems.byte]

/-- A memory that is not written keeps its bytes. -/
theorem Mems.byte_put_other (m : Mems) {i k : Inst} (a : Nat) (x : Byte) (b : Nat) (h : k ≠ i) :
    (m.put i a x).byte k b = m.byte k b := by
  cases i with
  | host => rfl
  | privet => cases k <;> first | rfl | exact absurd rfl h
  | bank p =>
    cases k with
    | bank q =>
      have hp : p ≠ q := fun e => h (e ▸ rfl)
      exact Mem.byte_put_other _ _ (by simp only [bankKey]; omega)
    | _ => rfl
  | leaf p =>
    simp only [Mems.put]
    split
    · cases k with
      | leaf q =>
        have hp : p ≠ q := fun e => h (e ▸ rfl)
        simp only [Mems.byte]
        rw [Mem.byte_put_other _ _ (by simp only [leafKey]; omega)]
      | _ => rfl
    · rfl

/-- The memories of State.reset hold nothing and are canonical. -/
theorem reset_mem_wf : State.reset.eng.mem.wf := ⟨Mem.wf_nil, Mem.wf_nil, Mem.wf_nil⟩

end Sys2Proof.Machine
end

