-- ==== Sys2Proof/Laws/PerInstr.lean ====
section
/-! SUPPORT. Statements made for every command: a well-formed command names only units that the largest
configuration has (R7, R18). -/

namespace Sys2Proof.Laws.UnitsExist

/-- The hedgerows a command names. -/
def hedgerowsOf : Instr → List Nat
  | .pwrAck h _ _ | .powerDownRequest h _ | .memoryClearDone h _ => [h]
  | .hrDrainingStop h | .hrAbortiveStop ⟨h, _⟩ | .hrStopped h | .hrStart h | .driverFence ⟨h, _⟩ | .fenceDrainComplete h
  | .readmit h | .readmitTestStart h | .readmitTestEnd h _ _ _ => [h]
  | .fabricReadResponse h _ _ _ _ _ => [h]
  | .fabricWriteResponse (.hfp h) _ _ | .fabricTimeout (.hfp h) _ => [h]
  | .retentionEntry (.bank h) | .retentionWakeDone (.bank h) => [h]
  | .bistTurn h | .sliceStart h | .secureSliceTimeout h | .sliceForced h | .reclaimRelease h | .parityError h
  | .sliceEnd h _ _ => [h]
  | .networkAccess (.bankRead h _) | .networkAccess (.bankWrite h _ _) => [h]
  | .logicTestEnd f => f.spares ++ f.movers ++ f.comparators
  | .memoryTestEnd f => f.bankRows.map (fun x => x.1) ++ f.staging
  | _ => []

/-- The pleachers a command names. -/
def pleachersOf : Instr → List Nat
  | .jobSelect g | .jobStart g | .stagingCopyStart g | .stagingCopyComplete g | .sliceQuantum g _
  | .saveRecordDone g _ | .restoreDone g | .programFetchReturn g | .endJob g | .tld g | .tst g | .tperm g | .txp g
  | .tgath g | .tscat g | .tplane g | .tswz g | .tfillFill g | .tfillPad g | .tcat g | .tmovCopy g
  | .tmovHeaderWrite g | .tmovALoad g | .tmovAAdd g | .tmovCLoad g | .tmovNop g | .pwait g | .pwaitComplete g _
  | .loop g | .br g | .fenceInstr g | .sync g _ | .syncPoll g _ | .routeBuildDone g | .instructionRetire g _ _ => [g]
  | .retentionEntry (.leaf g) | .retentionWakeDone (.leaf g) => [g]
  | .networkAccess (.leafRead g _) | .networkAccess (.leafWrite g _ _) | .networkAccess (.tileRead g _ _)
  | .networkAccess (.tileWrite g _ _ _) => [g]
  | .logicTestEnd f => f.pleachers
  | .memoryTestEnd f => f.leafRows.map (fun x => x.1) ++ f.pleachers
  | _ => []

/-- A well-formed command names only units that exist. -/
def Statement (i : Instr) : Prop :=
  i.wf = true → (∀ h ∈ hedgerowsOf i, h < 12) ∧ (∀ g ∈ pleachersOf i, g < 96)

/-- The first of two checks. -/
theorem andLeft {a b : Bool} (w : (a && b) = true) : a = true := (Bool.and_eq_true_iff.mp w).1

/-- A command that names no unit. -/
theorem noUnit {i : Instr} (a : hedgerowsOf i = []) (b : pleachersOf i = []) : Statement i :=
  fun _ => ⟨fun _ m => absurd (a ▸ m) List.not_mem_nil, fun _ m => absurd (b ▸ m) List.not_mem_nil⟩

/-- A command that names one hedgerow. -/
theorem oneHedgerow {i : Instr} {h : Nat} (a : hedgerowsOf i = [h]) (b : pleachersOf i = [])
    (k : i.wf = true → h < 12) : Statement i :=
  fun w => ⟨fun _ m => List.mem_singleton.mp (a ▸ m) ▸ k w, fun _ m => absurd (b ▸ m) List.not_mem_nil⟩

/-- A command that names one pleacher. -/
theorem onePleacher {i : Instr} {g : Nat} (a : hedgerowsOf i = []) (b : pleachersOf i = [g])
    (k : i.wf = true → g < 96) : Statement i :=
  fun w => ⟨fun _ m => absurd (a ▸ m) List.not_mem_nil, fun _ m => List.mem_singleton.mp (b ▸ m) ▸ k w⟩

theorem powerOnReset : Statement .powerOnReset := noUnit rfl rfl
theorem mgmtReset : Statement .mgmtReset := noUnit rfl rfl
theorem coreReset : Statement .coreReset := noUnit rfl rfl
theorem start : Statement .start := noUnit rfl rfl
theorem fuseWord (word : W32) (last : Bool) : Statement (.fuseWord word last) := noUnit rfl rfl
theorem logicTestEnd (f : LogicFails) : Statement (.logicTestEnd f) := by
  intro w
  simp only [Instr.wf, logicFailsOk, Bool.and_eq_true, List.all_eq_true] at w
  obtain ⟨⟨⟨p, a⟩, b⟩, c⟩ := w
  refine ⟨fun h hh => ?_, fun g hg => of_decide_eq_true (p g hg)⟩
  rcases List.mem_append.mp hh with hh | hh
  · rcases List.mem_append.mp hh with hh | hh
    · exact of_decide_eq_true (a h hh)
    · exact of_decide_eq_true (b h hh)
  · exact of_decide_eq_true (c h hh)
theorem memoryTestEnd (f : MemFails) : Statement (.memoryTestEnd f) := by
  intro w
  simp only [Instr.wf, memFailsOk, Bool.and_eq_true, List.all_eq_true] at w
  obtain ⟨⟨⟨⟨a, b⟩, _⟩, p⟩, c⟩ := w
  constructor
  · intro h hh
    rcases List.mem_append.mp hh with hh | hh
    · obtain ⟨x, hx, rfl⟩ := List.mem_map.mp hh
      exact of_decide_eq_true (b x hx).1.1
    · exact of_decide_eq_true (c h hh)
  · intro g hg
    rcases List.mem_append.mp hg with hg | hg
    · obtain ⟨x, hx, rfl⟩ := List.mem_map.mp hg
      exact of_decide_eq_true (a x hx).1
    · exact of_decide_eq_true (p g hg)
theorem fuseTmo : Statement .fuseTmo := noUnit rfl rfl
theorem startTmo : Statement .startTmo := noUnit rfl rfl
theorem pwrAck (h k : Nat) (level : Bool) : Statement (.pwrAck h k level) := oneHedgerow rfl rfl fun w => of_decide_eq_true (andLeft w)
theorem powerDownRequest (h k : Nat) : Statement (.powerDownRequest h k) := oneHedgerow rfl rfl fun w => of_decide_eq_true (andLeft w)
theorem memoryClearDone (h k : Nat) : Statement (.memoryClearDone h k) := oneHedgerow rfl rfl fun w => of_decide_eq_true (andLeft w)
theorem run : Statement .run := noUnit rfl rfl
theorem drainingStop : Statement .drainingStop := noUnit rfl rfl
theorem abortiveStop : Statement .abortiveStop := noUnit rfl rfl
theorem blockStopped : Statement .blockStopped := noUnit rfl rfl
theorem hrDrainingStop (h : Nat) : Statement (.hrDrainingStop h) := oneHedgerow rfl rfl of_decide_eq_true
theorem hrAbortiveStop (h : Tied Nat) : Statement (.hrAbortiveStop h) := oneHedgerow rfl rfl of_decide_eq_true
theorem hrStopped (h : Nat) : Statement (.hrStopped h) := oneHedgerow rfl rfl of_decide_eq_true
theorem hrStart (h : Nat) : Statement (.hrStart h) := oneHedgerow rfl rfl of_decide_eq_true
theorem driverFence (h : Tied Nat) : Statement (.driverFence h) := oneHedgerow rfl rfl of_decide_eq_true
theorem fenceDrainComplete (h : Nat) : Statement (.fenceDrainComplete h) := oneHedgerow rfl rfl of_decide_eq_true
theorem readmit (h : Nat) : Statement (.readmit h) := oneHedgerow rfl rfl of_decide_eq_true
theorem readmitTestStart (h : Nat) : Statement (.readmitTestStart h) := oneHedgerow rfl rfl of_decide_eq_true
theorem readmitTestEnd (h : Nat) (cmp : SliceObs) (pl : Tab SliceObs 8) (spare : SliceObs) : Statement (.readmitTestEnd h cmp pl spare) := oneHedgerow rfl rfl of_decide_eq_true
theorem rcFlush (i : Nat) (bits : W32) : Statement (.rcFlush i bits) := noUnit rfl rfl
theorem cntClearBlock : Statement .cntClearBlock := noUnit rfl rfl
theorem cntClearHedgerow : Statement .cntClearHedgerow := noUnit rfl rfl
theorem cntClearDomain : Statement .cntClearDomain := noUnit rfl rfl
theorem cntClearRemote : Statement .cntClearRemote := noUnit rfl rfl
theorem softRepair (word : W32) : Statement (.softRepair word) := noUnit rfl rfl
theorem repairLogRead : Statement .repairLogRead := noUnit rfl rfl
theorem qsRetry : Statement .qsRetry := noUnit rfl rfl
theorem iwpOpenSet (bits : W32) : Statement (.iwpOpenSet bits) := noUnit rfl rfl
theorem iwpOpenClr (bits : W32) : Statement (.iwpOpenClr bits) := noUnit rfl rfl
theorem pdEnable (d : Nat) (word : W32) : Statement (.pdEnable d word) := noUnit rfl rfl
theorem pdDisable (d : Nat) (word : W32) : Statement (.pdDisable d word) := noUnit rfl rfl
theorem pdRebind (d : Nat) (word : W32) : Statement (.pdRebind d word) := noUnit rfl rfl
theorem genNegWrite (word : W32) : Statement (.genNegWrite word) := noUnit rfl rfl
theorem secLock (word : W32) : Statement (.secLock word) := noUnit rfl rfl
theorem registerWrite (off : Nat) (word : W32) : Statement (.registerWrite off word) := noUnit rfl rfl
theorem pollTick : Statement .pollTick := noUnit rfl rfl
theorem summaryLineReturn (tag : Nat) (line : BitVec 512) (psn : Bool) (code : BitVec 2) : Statement (.summaryLineReturn tag line psn code) := noUnit rfl rfl
theorem doorbellLineReturn (tag : Nat) (line : BitVec 512) (psn : Bool) (code : BitVec 2) : Statement (.doorbellLineReturn tag line psn code) := noUnit rfl rfl
theorem ringTableReturn (tag : Nat) (entry : BitVec 128) (psn : Bool) (code : BitVec 2) : Statement (.ringTableReturn tag entry psn code) := noUnit rfl rfl
theorem descriptorReturn (tag : Nat) (slot : BitVec 2048) (psn : Bool) (code : BitVec 2) : Statement (.descriptorReturn tag slot psn code) := noUnit rfl rfl
theorem descriptorFetchResume : Statement .descriptorFetchResume := noUnit rfl rfl
theorem ringFenceRelease (ring : Nat) : Statement (.ringFenceRelease ring) := noUnit rfl rfl
theorem admissionCompare : Statement .admissionCompare := noUnit rfl rfl
theorem jobSelect (g : Nat) : Statement (.jobSelect g) := onePleacher rfl rfl of_decide_eq_true
theorem jobStart (g : Nat) : Statement (.jobStart g) := onePleacher rfl rfl of_decide_eq_true
theorem stagingCopyStart (g : Nat) : Statement (.stagingCopyStart g) := onePleacher rfl rfl of_decide_eq_true
theorem stagingCopyComplete (g : Nat) : Statement (.stagingCopyComplete g) := onePleacher rfl rfl of_decide_eq_true
theorem sliceQuantum (g n : Nat) : Statement (.sliceQuantum g n) := onePleacher rfl rfl of_decide_eq_true
theorem saveRecordDone (g slot : Nat) : Statement (.saveRecordDone g slot) := onePleacher rfl rfl fun w => of_decide_eq_true (andLeft w)
theorem restoreDone (g : Nat) : Statement (.restoreDone g) := onePleacher rfl rfl of_decide_eq_true
theorem programFetchReturn (g : Nat) : Statement (.programFetchReturn g) := onePleacher rfl rfl of_decide_eq_true
theorem endJob (g : Nat) : Statement (.endJob g) := onePleacher rfl rfl of_decide_eq_true
theorem tld (g : Nat) : Statement (.tld g) := onePleacher rfl rfl of_decide_eq_true
theorem tst (g : Nat) : Statement (.tst g) := onePleacher rfl rfl of_decide_eq_true
theorem tperm (g : Nat) : Statement (.tperm g) := onePleacher rfl rfl of_decide_eq_true
theorem txp (g : Nat) : Statement (.txp g) := onePleacher rfl rfl of_decide_eq_true
theorem tgath (g : Nat) : Statement (.tgath g) := onePleacher rfl rfl of_decide_eq_true
theorem tscat (g : Nat) : Statement (.tscat g) := onePleacher rfl rfl of_decide_eq_true
theorem tplane (g : Nat) : Statement (.tplane g) := onePleacher rfl rfl of_decide_eq_true
theorem tswz (g : Nat) : Statement (.tswz g) := onePleacher rfl rfl of_decide_eq_true
theorem tfillFill (g : Nat) : Statement (.tfillFill g) := onePleacher rfl rfl of_decide_eq_true
theorem tfillPad (g : Nat) : Statement (.tfillPad g) := onePleacher rfl rfl of_decide_eq_true
theorem tcat (g : Nat) : Statement (.tcat g) := onePleacher rfl rfl of_decide_eq_true
theorem tmovCopy (g : Nat) : Statement (.tmovCopy g) := onePleacher rfl rfl of_decide_eq_true
theorem tmovHeaderWrite (g : Nat) : Statement (.tmovHeaderWrite g) := onePleacher rfl rfl of_decide_eq_true
theorem tmovALoad (g : Nat) : Statement (.tmovALoad g) := onePleacher rfl rfl of_decide_eq_true
theorem tmovAAdd (g : Nat) : Statement (.tmovAAdd g) := onePleacher rfl rfl of_decide_eq_true
theorem tmovCLoad (g : Nat) : Statement (.tmovCLoad g) := onePleacher rfl rfl of_decide_eq_true
theorem tmovNop (g : Nat) : Statement (.tmovNop g) := onePleacher rfl rfl of_decide_eq_true
theorem pwait (g : Nat) : Statement (.pwait g) := onePleacher rfl rfl of_decide_eq_true
theorem pwaitComplete (g : Nat) (ph : Phases) : Statement (.pwaitComplete g ph) := onePleacher rfl rfl of_decide_eq_true
theorem loop (g : Nat) : Statement (.loop g) := onePleacher rfl rfl of_decide_eq_true
theorem br (g : Nat) : Statement (.br g) := onePleacher rfl rfl of_decide_eq_true
theorem fenceInstr (g : Nat) : Statement (.fenceInstr g) := onePleacher rfl rfl of_decide_eq_true
theorem sync (g : Nat) (collide : Bool) : Statement (.sync g collide) := onePleacher rfl rfl of_decide_eq_true
theorem syncPoll (g : Nat) (collide : Bool) : Statement (.syncPoll g collide) := onePleacher rfl rfl of_decide_eq_true
theorem routeBuildDone (g : Nat) : Statement (.routeBuildDone g) := onePleacher rfl rfl of_decide_eq_true
theorem instructionRetire (g id refusals : Nat) : Statement (.instructionRetire g id refusals) := onePleacher rfl rfl of_decide_eq_true
theorem fabricReadResponse (h tag : Nat) (data : BitVec 1024) (psn code : BitVec 2) (last : Tied Bool) : Statement (.fabricReadResponse h tag data psn code last) := oneHedgerow rfl rfl fun w => of_decide_eq_true (andLeft w)
theorem fabricWriteResponse (path : Path) (tag : Nat) (code : Tied (BitVec 2)) : Statement (.fabricWriteResponse path tag code) := by
  cases path with
  | hfp h => exact oneHedgerow rfl rfl fun w => of_decide_eq_true (andLeft w)
  | cfp => exact noUnit rfl rfl
  | iwp => exact noUnit rfl rfl
theorem fabricTimeout (path : Path) (tag : Tied Nat) : Statement (.fabricTimeout path tag) := by
  cases path with
  | hfp h => exact oneHedgerow rfl rfl fun w => of_decide_eq_true (andLeft w)
  | cfp => exact noUnit rfl rfl
  | iwp => exact noUnit rfl rfl
theorem completionRecord (collide : Bool) : Statement (.completionRecord collide) := noUnit rfl rfl
theorem sourceWrap (wraps : BitVec 6) (ph : Phases) : Statement (.sourceWrap wraps ph) := noUnit rfl rfl
theorem pdStall (d : Nat) : Statement (.pdStall d) := noUnit rfl rfl
theorem windowOpen (ph : Cycles) : Statement (.windowOpen ph) := noUnit rfl rfl
theorem windowClose (ph : Tied Cycles) : Statement (.windowClose ph) := noUnit rfl rfl
theorem iwpInbound (win : BitVec 6) (addr : BitVec 52) (src : BitVec 6) (id : BitVec 16) (sc : BitVec 2) (data : InData) : Statement (.iwpInbound win addr src id sc data) := noUnit rfl rfl
theorem iwpResponseAccepted : Statement .iwpResponseAccepted := noUnit rfl rfl
theorem clkReqRaise : Statement .clkReqRaise := noUnit rfl rfl
theorem clkAckRaise : Statement .clkAckRaise := noUnit rfl rfl
theorem clkReqLower : Statement .clkReqLower := noUnit rfl rfl
theorem memQuiesce (level : Bool) : Statement (.memQuiesce level) := noUnit rfl rfl
theorem memTrain (level : Bool) : Statement (.memTrain level) := noUnit rfl rfl
theorem retentionEntry (m : RetMem) : Statement (.retentionEntry m) := by
  cases m with
  | leaf g => exact onePleacher rfl rfl of_decide_eq_true
  | bank h => exact oneHedgerow rfl rfl of_decide_eq_true
theorem retentionWakeDone (m : RetMem) : Statement (.retentionWakeDone m) := by
  cases m with
  | leaf g => exact onePleacher rfl rfl of_decide_eq_true
  | bank h => exact oneHedgerow rfl rfl of_decide_eq_true
theorem lcsRegister (code : BitVec 4) (fcStopped : Tied Bool) : Statement (.lcsRegister code fcStopped) := noUnit rfl rfl
theorem tamper (fcStopped : Tied Bool) : Statement (.tamper fcStopped) := noUnit rfl rfl
theorem wipeReadback : Statement .wipeReadback := noUnit rfl rfl
theorem wipeEnd (lines : List Nat) : Statement (.wipeEnd lines) := noUnit rfl rfl
theorem testModeRise : Statement .testModeRise := noUnit rfl rfl
theorem bistTurn (h : Nat) : Statement (.bistTurn h) := oneHedgerow rfl rfl of_decide_eq_true
theorem sliceStart (h : Nat) : Statement (.sliceStart h) := oneHedgerow rfl rfl of_decide_eq_true
theorem secureSliceTimeout (h : Nat) : Statement (.secureSliceTimeout h) := oneHedgerow rfl rfl of_decide_eq_true
theorem sliceForced (h : Nat) : Statement (.sliceForced h) := oneHedgerow rfl rfl of_decide_eq_true
theorem sliceEnd (h : Nat) (obs : SliceObs) (rows : List Nat) : Statement (.sliceEnd h obs rows) := oneHedgerow rfl rfl fun w => of_decide_eq_true (andLeft w)
theorem reclaimRelease (h : Nat) : Statement (.reclaimRelease h) := oneHedgerow rfl rfl of_decide_eq_true
theorem parityError (h : Nat) : Statement (.parityError h) := oneHedgerow rfl rfl of_decide_eq_true
theorem networkAccess (a : NetAccess) : Statement (.networkAccess a) := by
  cases a with
  | leafRead g x => exact onePleacher rfl rfl fun w => of_decide_eq_true (andLeft w)
  | leafWrite g x b => exact onePleacher rfl rfl fun w => of_decide_eq_true (andLeft w)
  | bankRead h x => exact oneHedgerow rfl rfl fun w => of_decide_eq_true (andLeft w)
  | bankWrite h x b => exact oneHedgerow rfl rfl fun w => of_decide_eq_true (andLeft w)
  | tileRead g u x => exact onePleacher rfl rfl fun w => of_decide_eq_true (andLeft (andLeft w))
  | tileWrite g u x b => exact onePleacher rfl rfl fun w => of_decide_eq_true (andLeft (andLeft w))
  | _ => exact noUnit rfl rfl
theorem fcRestart (ph : Cycles) : Statement (.fcRestart ph) := noUnit rfl rfl

end Sys2Proof.Laws.UnitsExist
end

