-- ==== Sys2Proof/Laws/SetUp.lean ====
section
/-! SUPPORT. What the operations over the whole state leave alone: the queue, the configuration, the RW registers, the
security set-up, and a tamper latch that is set. -/

namespace Sys2Proof.Machine

open Sys2Proof

/-- `t` has the queue, configuration, RW registers and security set-up of `s`, and its tamper latch if set. -/
structure SetUpKept (s t : State) : Prop where
  pending : t.pending = s.pending
  cfg : t.env.cfg = s.env.cfg
  regs : t.env.regs = s.env.regs
  secCfg : t.env.sec.cfg = s.env.sec.cfg
  saveBase : t.env.sec.saveBase = s.env.sec.saveBase
  stageBase : t.env.sec.stageBase = s.env.sec.stageBase
  stageSize : t.env.sec.stageSize = s.env.sec.stageSize
  tamper : s.env.sec.tamper = true → t.env.sec.tamper = true

theorem SetUpKept.refl (s : State) : SetUpKept s s := ⟨rfl, rfl, rfl, rfl, rfl, rfl, rfl, id⟩

theorem SetUpKept.trans {s t u : State} (h : SetUpKept s t) (k : SetUpKept t u) : SetUpKept s u :=
  ⟨k.pending.trans h.pending, k.cfg.trans h.cfg, k.regs.trans h.regs, k.secCfg.trans h.secCfg,
    k.saveBase.trans h.saveBase, k.stageBase.trans h.stageBase, k.stageSize.trans h.stageSize,
    fun x => k.tamper (h.tamper x)⟩

/-- The same queue, configuration, registers and security state. -/
theorem SetUpKept.of_eq {s t : State} (h1 : t.pending = s.pending) (h2 : t.env.cfg = s.env.cfg)
    (h3 : t.env.regs = s.env.regs) (h4 : t.env.sec = s.env.sec) : SetUpKept s t :=
  ⟨h1, h2, h3, by rw [h4], by rw [h4], by rw [h4], by rw [h4], by rw [h4]; exact id⟩

theorem SetUpKept.onEng (s : State) (e : Eng) : SetUpKept s (s.onEng e) := .of_eq rfl rfl rfl rfl

theorem SetUpKept.onRep (s : State) (f : Rep → Rep) : SetUpKept s (s.onRep f) := .of_eq rfl rfl rfl rfl

theorem SetUpKept.onPins (s : State) (f : Pins → Pins) : SetUpKept s (s.onPins f) := .of_eq rfl rfl rfl rfl

theorem SetUpKept.onWrap (s : State) (f : Wrapper → Wrapper) : SetUpKept s (s.onWrap f) := .of_eq rfl rfl rfl rfl

/-- A fold of an operation that keeps the set-up keeps it. -/
theorem SetUpKept.foldl {α : Type} (f : State → α → State) (hf : ∀ s x, SetUpKept s (f s x)) (l : List α)
    (s : State) : SetUpKept s (l.foldl f s) := by
  induction l generalizing s with
  | nil => exact .refl s
  | cons x r ih => exact (hf s x).trans (ih (f s x))

/-! ### Repair -/

theorem applyRepair_kept (s : State) (w : RepairWord) : SetUpKept s (applyRepair s w) := by
  unfold applyRepair
  split
  · exact .refl s
  · split
    · exact .onRep _ _
    · exact .onRep _ _
    · exact (SetUpKept.onRep _ _).trans (.onEng _ _)

theorem repairLeafRow_kept (s : State) (g row : Nat) : SetUpKept s (repairLeafRow s g row) := by
  unfold repairLeafRow
  simp only
  split
  · exact (SetUpKept.onRep _ _).trans (.onRep _ _)
  · exact ((SetUpKept.onRep _ _).trans (.onRep _ _)).trans (.onEng _ _)

theorem repairBankRow_kept (s : State) (h b r : Nat) : SetUpKept s (repairBankRow s h b r) := by
  unfold repairBankRow
  simp only
  split
  · exact (SetUpKept.onRep _ _).trans (.onRep _ _)
  · exact ((SetUpKept.onRep _ _).trans (.onRep _ _)).trans (.onEng _ _)

theorem repairLeafAt_kept (s : State) (g row : Nat) : SetUpKept s (repairLeafAt s g row) := by
  unfold repairLeafAt
  split
  · exact repairLeafRow_kept _ _ _
  · split
    · exact repairLeafRow_kept _ _ _
    · exact .onRep _ _

theorem repairBankAt_kept (s : State) (h b r : Nat) : SetUpKept s (repairBankAt s h b r) := by
  unfold repairBankAt
  split
  · exact repairBankRow_kept _ _ _ _
  · split
    · exact repairBankRow_kept _ _ _ _
    · exact .onRep _ _

theorem privetLineFails_kept (s : State) (l : Nat) : SetUpKept s (privetLineFails s l) := .onRep _ _

theorem mapSpare_kept (s : State) (h p : Nat) : SetUpKept s (mapSpare s h p) :=
  ((SetUpKept.onRep _ _).trans (.onEng _ _)).trans (.onRep _ _)

theorem spareFails_kept (s : State) (h : Nat) : SetUpKept s (spareFails s h) :=
  (SetUpKept.onRep _ _).trans (.onEng _ _)

/-! ### The start -/

theorem failStart_kept (s : State) (r : BitVec 4) : SetUpKept s (failStart s r) := .of_eq rfl rfl rfl rfl

theorem enterPower_kept (s : State) : SetUpKept s (enterPower s) := .of_eq rfl rfl rfl rfl

theorem startFenced_kept (c : BitVec 3) (s : State) (h : Nat) : SetUpKept s (startFenced c s h) := by
  unfold startFenced
  split
  · exact .refl s
  · exact .onEng _ _

theorem startPleacher_kept (s : State) (g : Nat) : SetUpKept s (startPleacher s g) := by
  unfold startPleacher
  split
  · exact .refl s
  · simp only
    split
    · exact (SetUpKept.onEng _ _).trans (mapSpare_kept _ _ _)
    · exact (SetUpKept.onEng _ _).trans (startFenced_kept _ _ _)

theorem startSpare_kept (s : State) (h : Nat) : SetUpKept s (startSpare s h) := by
  unfold startSpare
  split
  · exact spareFails_kept _ _
  · exact .refl s

theorem startLeafRow_kept (s : State) (x : Nat × Nat) : SetUpKept s (startLeafRow s x) := by
  unfold startLeafRow
  split
  · exact repairLeafAt_kept _ _ _
  · exact .refl s

theorem startBankRow_kept (s : State) (x : Nat × Nat × Nat) : SetUpKept s (startBankRow s x) := by
  unfold startBankRow
  split
  · exact repairBankAt_kept _ _ _ _
  · exact .refl s

theorem startPrivet_kept (s : State) (l : Nat) : SetUpKept s (startPrivet s l) := by
  unfold startPrivet
  split
  · exact privetLineFails_kept _ _
  · exact .refl s

theorem phaseEnd_kept (s : State) (own : Option (BitVec 4)) (go : Eng → Eng) : SetUpKept s (phaseEnd s own go) := by
  unfold phaseEnd
  split
  · exact failStart_kept _ _
  · split
    · exact failStart_kept _ _
    · exact .onEng _ _

/-! ### Power, re-admission, slices -/

theorem setReq_kept (s : State) (v : Env) (h k : Nat) (b : Bool) (hv : SetUpKept s (s.onEnv v)) :
    SetUpKept s (s.onEnv (v.setReq h k b)) :=
  ⟨rfl, hv.cfg, hv.regs, hv.secCfg, hv.saveBase, hv.stageBase, hv.stageSize, hv.tamper⟩

theorem lowerReqs_kept (s : State) (e : Eng) (h : Nat) (v : Env) (hv : SetUpKept s (s.onEnv v)) :
    SetUpKept s (s.onEnv (lowerReqs e h v)) := by
  unfold lowerReqs
  generalize upTo 4 = l
  induction l generalizing v with
  | nil => exact hv
  | cons k r ih =>
    simp only [List.foldl_cons]
    split
    · exact ih _ (setReq_kept s v h k false hv)
    · exact ih _ hv

theorem relax_kept (s : State) : SetUpKept s s.relax := by
  unfold State.relax
  split
  · generalize upTo s.env.cfg.hedgerows = l
    have : ∀ (l : List Nat) (v : Env), SetUpKept s (s.onEnv v) →
        SetUpKept s (s.onEnv (l.foldl (fun v h => lowerReqs s.eng h v) v)) := by
      intro l
      induction l with
      | nil => intro v hv; exact hv
      | cons h r ih => intro v hv; exact ih _ (lowerReqs_kept s s.eng h v hv)
    exact this l s.env (.refl s)
  · exact .refl s

theorem testPleachers_kept (h : Nat) (pl : Tab SliceObs 8) (spare : SliceObs) (ps : List Nat) (s : State)
    (rs : List SliceRes) : SetUpKept s (testPleachers h pl spare ps s rs).1 := by
  induction ps generalizing s rs with
  | nil => exact .refl s
  | cons p ps ih =>
    unfold testPleachers
    simp only
    split
    · split
      · exact ((((SetUpKept.onEng _ _).trans (.onEng _ _)).trans (mapSpare_kept _ _ _)).trans (.onEng _ _)).trans
          (ih _ _)
      · exact ((SetUpKept.onEng _ _).trans (.onEng _ _)).trans (ih _ _)
    · exact (SetUpKept.onEng _ _).trans (ih _ _)

theorem readmitSlices_kept (s : State) (h : Nat) (cut : Option Nat) (cmp : SliceObs) (pl : Tab SliceObs 8)
    (spare : SliceObs) : SetUpKept s (readmitSlices s h cut cmp pl spare).1 := by
  unfold readmitSlices
  simp only
  split
  · exact .onEng _ _
  · exact (SetUpKept.onEng _ _).trans (testPleachers_kept _ _ _ _ _ _)

theorem readmitEnd_kept (s : State) (h : Nat) (cmp : SliceObs) (pl : Tab SliceObs 8) (spare : SliceObs) :
    SetUpKept s (readmitEnd s h cmp pl spare) := by
  unfold readmitEnd
  simp only
  cases (s.eng.hr.look h).testCut <;> simp only [Bool.false_eq_true, if_true, if_false] <;> split
  · exact (readmitSlices_kept _ _ _ _ _ _).trans (.onEng _ _)
  · exact (readmitSlices_kept _ _ _ _ _ _).trans (.onEng _ _)
  · exact ((SetUpKept.onEng _ _).trans (readmitSlices_kept _ _ _ _ _ _)).trans (.onEng _ _)
  · exact ((SetUpKept.onEng _ _).trans (readmitSlices_kept _ _ _ _ _ _)).trans (.onEng _ _)

theorem pleacherFails_kept (s : State) (h p : Nat) : SetUpKept s (pleacherFails s h p) := by
  unfold pleacherFails
  simp only
  split
  · exact (SetUpKept.onEng _ _).trans (mapSpare_kept _ _ _)
  · exact (SetUpKept.onEng _ _).trans (.onEng _ _)

theorem sliceFails_kept (s : State) (h : Nat) (t : Turn) (rows : List Nat) :
    SetUpKept s (sliceFails s h t rows) := by
  unfold sliceFails
  repeat' split
  · exact pleacherFails_kept _ _ _
  · exact spareFails_kept _ _
  · exact .onEng _ _
  · exact .onEng _ _
  · exact .foldl _ (fun s r => repairLeafRow_kept _ _ _) _ _
  · exact .foldl _ (fun s r => repairBankRow_kept _ _ _ _) _ _

theorem sliceOver_kept (s : State) (h : Nat) (t : Turn) (obs : SliceObs) (rows : List Nat) :
    SetUpKept s (sliceOver s h t obs rows) := by
  have key : ∀ (r : SliceRes) (u : State), SetUpKept u
      (if r == .fail then sliceFails u h t rows
       else if t.forced then u.onEng (unfence u.eng h) else u) := by
    intro r u
    split
    · exact sliceFails_kept _ _ _ _
    · split
      · exact .onEng _ _
      · exact .refl _
  exact ((SetUpKept.onEng _ _).trans (key _ _)).trans (.onEng _ _)

/-! ### Security -/

theorem startWipe_kept (s : State) (b tie : Bool) : SetUpKept s (startWipe s b tie) := by
  unfold startWipe
  split
  · exact .refl s
  · exact ⟨rfl, rfl, rfl, rfl, rfl, rfl, rfl, id⟩

/-- A zeroized pleacher: nothing differs but the pleachers and the jobs. -/
theorem zeroize1_only (e : Eng) (g : Nat) : ∃ pl jobs, e.zeroize1 g = { e with pl := pl, jobs := jobs } := by
  simp only [Eng.zeroize1]
  split
  · exact ⟨_, _, rfl⟩
  · exact ⟨_, _, rfl⟩

/-- A zeroization: nothing differs but the pleachers, the jobs and its two flags, of which the one that waits for the
wipe is set where there is a privet bank, and SCAN_READY where there is none. -/
theorem beginZeroize_only (s : State) :
    ∃ pl jobs, beginZeroize s = s.onEng
      { s.eng with
        pl := pl, jobs := jobs, zeroize := s.eng.privetOn || s.eng.zeroize, scanReady := !s.eng.privetOn || s.eng.scanReady } := by
  have all : ∀ (gs : List Nat) (e : Eng), ∃ pl jobs, gs.foldl Eng.zeroize1 e = { e with pl := pl, jobs := jobs } := by
    intro gs
    induction gs with
    | nil => exact fun e => ⟨_, _, rfl⟩
    | cons g gs ih =>
      intro e
      obtain ⟨_, _, h⟩ := zeroize1_only e g
      obtain ⟨_, _, h'⟩ := ih (e.zeroize1 g)
      exact ⟨_, _, by rw [List.foldl_cons, h', h]⟩
  obtain ⟨pl, jobs, h⟩ := all (upTo (8 * s.env.cfg.hedgerows)) s.eng
  refine ⟨pl, jobs.map Job.zeroPrivet, ?_⟩
  unfold beginZeroize
  rw [h]
  cases hp : s.eng.privetOn <;> simp [hp]

theorem beginZeroize_kept (s : State) : SetUpKept s (beginZeroize s) := .onEng _ _

theorem netAnswer_kept (s : State) (x : W32) : SetUpKept s (netAnswer s x) := .onEng _ _

theorem netFree_kept (s : State) : SetUpKept s (netFree s) := (netAnswer_kept _ _).trans (.onEng _ _)

theorem wrapShift_kept (s : State) (b : Bool) : SetUpKept s (wrapShift s b) := by
  unfold wrapShift
  split
  · exact .onWrap _ _
  · split
    · exact .onWrap _ _
    · exact (SetUpKept.onWrap _ _).trans (.onEng _ _)

theorem netRead_kept (s : State) (x : NetGate × Eng) (b : Byte) : SetUpKept s (netRead s x b) := by
  unfold netRead
  simp only
  split
  · exact (SetUpKept.onEng _ _).trans (netAnswer_kept _ _)
  · exact ((SetUpKept.onEng _ _).trans (netAnswer_kept _ _)).trans (.onEng _ _)
  · exact .onEng _ _
  · exact (SetUpKept.onEng _ _).trans (netAnswer_kept _ _)

theorem netWrite_kept (s : State) (x : NetGate × Eng) (f : Eng → Eng) : SetUpKept s (netWrite s x f) := by
  unfold netWrite
  simp only
  split
  · exact ((SetUpKept.onEng _ _).trans (.onEng _ _)).trans (netAnswer_kept _ _)
  · exact .onEng _ _
  · exact (SetUpKept.onEng _ _).trans (netAnswer_kept _ _)

theorem ctlRead_kept (s : State) (a : Nat) : SetUpKept s (ctlRead s a) := by
  unfold ctlRead
  split
  · exact netAnswer_kept _ _
  · split
    · exact netAnswer_kept _ _
    · split
      · exact netAnswer_kept _ _
      · exact (netAnswer_kept _ _).trans (.onEng _ _)

theorem wrapCapture_kept (s : State) : SetUpKept s (wrapCapture s) := by
  unfold wrapCapture
  split
  · exact .refl _
  · split
    · exact (SetUpKept.onWrap _ _).trans (.onEng _ _)
    · exact .refl _

theorem ctlWrite_kept (s : State) (a : Nat) (x : Byte) : SetUpKept s (ctlWrite s a x) := by
  unfold ctlWrite
  simp only
  split
  · exact (netAnswer_kept _ _).trans (.onEng _ _)
  · exact netAnswer_kept _ _

theorem netAccess_kept (a : NetAccess) (s : State) : SetUpKept s (netAccess a s) := by
  cases a <;> simp only [netAccess] <;>
    first
    | exact .onWrap _ _
    | exact wrapShift_kept _ _
    | exact wrapCapture_kept _
    | exact .refl _
    | exact .onEng _ _
    | exact netAnswer_kept _ _
    | exact netFree_kept _
    | exact netRead_kept _ _ _
    | exact netWrite_kept _ _ _
    | exact ctlRead_kept _ _
    | exact ctlWrite_kept _ _ _
    | (split; exact applyRepair_kept _ _; exact .refl _)

end Sys2Proof.Machine
end

