-- ==== Sys2Proof/Tests/Slice0.lean ====
section
/-! SUPPORT. Tests: the checks of well-formedness each refuse an ill-formed command; the spec's own examples; and for
every statement a state and operands that meet its hypotheses together. -/

namespace Sys2Proof.Tests

open Sys2Proof Sys2Proof.Machine

/-! ### Well-formedness: an ill-formed command for each check -/

theorem test_wf_hedgerow : (Instr.hrStart 12).wf = false ∧ (Instr.hrStart 11).wf = true := by decide
theorem test_wf_pleacher : (Instr.tld 96).wf = false ∧ (Instr.tld 95).wf = true := by decide
theorem test_wf_power_domain : (Instr.pwrAck 0 4 true).wf = false ∧ (Instr.pwrAck 0 3 true).wf = true := by decide
theorem test_wf_domain : (Instr.pdStall 16).wf = false ∧ (Instr.pdStall 15).wf = true := by decide
theorem test_wf_memory_fails :
    (Instr.memoryTestEnd ⟨[(0, 776)], [], [], false, [], []⟩).wf = false ∧
    (Instr.memoryTestEnd ⟨[], [(0, 32, 0)], [], false, [], []⟩).wf = false ∧
    (Instr.memoryTestEnd ⟨[], [(0, 0, 129)], [], false, [], []⟩).wf = false ∧
    (Instr.memoryTestEnd ⟨[], [], [4096], false, [], []⟩).wf = false ∧
    (Instr.memoryTestEnd ⟨[], [], [], false, [96], []⟩).wf = false ∧
    (Instr.memoryTestEnd ⟨[], [], [], false, [], [12]⟩).wf = false ∧
    (Instr.memoryTestEnd ⟨[(95, 775)], [(11, 31, 128)], [4095], true, [95], [11]⟩).wf = true := by decide
theorem test_wf_logic_fails :
    (Instr.logicTestEnd ⟨false, [96], [], [], []⟩).wf = false ∧
    (Instr.logicTestEnd ⟨false, [], [12], [], []⟩).wf = false ∧
    (Instr.logicTestEnd ⟨false, [], [], [12], []⟩).wf = false ∧
    (Instr.logicTestEnd ⟨false, [], [], [], [12]⟩).wf = false := by decide
theorem test_wf_path :
    (Instr.fabricTimeout (.hfp 12) ⟨0, false⟩).wf = false ∧ (Instr.fabricTimeout .cfp ⟨1024, false⟩).wf = false := by decide
theorem test_wf_tags :
    (Instr.summaryLineReturn 128 0 false 0).wf = false ∧ (Instr.fabricReadResponse 0 512 0 0 0 ⟨true, false⟩).wf = false := by
  decide
theorem test_wf_retention :
    (Instr.retentionEntry (.leaf 96)).wf = false ∧ (Instr.retentionWakeDone (.bank 12)).wf = false := by decide
theorem test_wf_network :
    (Instr.networkAccess (.leafRead 0 524288)).wf = false ∧ (Instr.networkAccess (.bankWrite 12 0 0)).wf = false ∧
    (Instr.networkAccess (.tileRead 0 9 0)).wf = false ∧ (Instr.networkAccess (.controlRead 1572864)).wf = false ∧
    (Instr.networkAccess (.privetWrite 524288 0)).wf = false := by decide
theorem test_wf_register :
    (Instr.registerWrite 65536 0).wf = false ∧ (Instr.registerWrite 2 0).wf = false ∧ (Instr.rcFlush 3 0).wf = false := by
  decide
theorem test_wf_ring_and_slot :
    (Instr.ringFenceRelease 65536).wf = false ∧ (Instr.saveRecordDone 0 32).wf = false := by decide
theorem test_wf_inbound :
    (Instr.iwpInbound 0 0 0 0 0 ⟨0, []⟩).wf = false ∧ (Instr.iwpInbound 0 0 0 0 0 ⟨0, [none]⟩).wf = false := by decide
theorem test_wf_rows :
    (Instr.sliceEnd 0 ⟨true, true⟩ [4096]).wf = false ∧ (Instr.wipeEnd [4096]).wf = false := by decide

/-! ### The spec's own examples -/

/-- The NHWC activation (02: one element of an NHWC activation). -/
def nhwc : TDesc :=
  { (default : TDesc) with
    base := 0x000820000000, format := 0x21, rank := 4, extent := [48, 160, 96, 1, 0, 0, 0, 0]
    stride := [2, 96, 15360, 1474560, 0, 0, 0, 0] }

theorem test_place_nhwc :
    (nhwc.pieces [29, 101, 37, 0]).map (fun p => p.addr) = [0x00082008D21A, 0x00082008D21B] ∧
    nhwc.mainBox = some (0x000820000000, 0x000820168000) ∧ nhwc.aligned = false := by decide

/-- The swizzled tile (02: a column read from a swizzled hedge-bank tile). -/
def swizzled : TDesc :=
  { (default : TDesc) with
    base := 0x40000, format := 0x20, space := 1, rank := 2, esp := 1, swzB := 3, swzM := 5, swzY := 8
    extent := [64, 64, 0, 0, 0, 0, 0, 0], stride := [4, 256, 0, 0, 0, 0, 0, 0] }

theorem test_place_swizzled :
    (swizzled.pieces [22, 13, 0, 0]).map (fun p => p.addr) = [0x40D30, 0x40D31, 0x40D32, 0x40D33] ∧
    swizzled.mainBox = some (0x40000, 0x44000) := by decide

/-- The INT3 window in planes (02: an INT3 waveform window in planes). -/
def planes3 : TDesc :=
  { (default : TDesc) with
    base := 0x000100000000, format := 0x09, rank := 2, planeStride := 2560
    extent := [100, 40, 0, 0, 0, 0, 0, 0], stride := [0, 64, 0, 0, 0, 0, 0, 0] }

theorem test_place_planes :
    (planes3.pieces [77, 9]).map (fun p => (p.addr, p.sh)) =
      [(0x000100000249, 5), (0x000100000C49, 5), (0x000100001649, 5)] ∧
    planes3.mainBox = some (0x000100000000, 0x000100001DCD) ∧ planes3.aligned = true := by decide

/-- FP32 to FP8 E4M3 (03). -/
def toE4M3 (c : Conv) (x : Nat) : Nat := convElem (fmtOf 0x20) (fmtOf 0x23) false c x 127

theorem test_convert_rne_sat :
    [0x3E99999A, 0x3E980000, 0x43960000, 0x43FA0000, 0x3A83126F, 0x80000000, 0x7F800000, 0x7FC00000].map
      (toE4M3 ⟨rndOf 0, false, 0⟩) = [0x2A, 0x2A, 0x79, 0x7E, 0x01, 0x80, 0x7E, 0x7F] := by decide
theorem test_convert_rtz_wrap :
    [0x3E99999A, 0x3E980000, 0x43960000, 0x43FA0000, 0x3A83126F, 0x80000000, 0x7F800000, 0x7FC00000].map
      (toE4M3 ⟨rndOf 1, true, 0⟩) = [0x29, 0x29, 0x79, 0x7E, 0x00, 0x80, 0x7F, 0x7F] := by decide

/-- Stochastic rounding to BF16 with u = 0x9A31, and the nearest-even result of the same value (03). -/
theorem test_convert_stochastic :
    convElem (fmtOf 0x20) (fmtOf 0x22) false ⟨rndOf 2, false, 0x9A31⟩ 0x3F808000 127 = 0x3F81 ∧
    convElem (fmtOf 0x20) (fmtOf 0x22) false ⟨rndOf 0, false, 0⟩ 0x3F808000 127 = 0x3F80 := by decide

/-- The set of an identifier (04: an arbitrary permutation, first built and then reused). -/
theorem test_route_set : cacheSet 16 0x0C417A20 = 6 := by decide

/-- The bit-plane split's route (04: bit-plane split of one INT8 row). -/
theorem test_plane_split_route : genSrc 0x2100000000000039 0 201 = 75 ∧ genSrc 0x2100000000000039 0 (64 * 7 + 63) = 511 := by
  decide

/-- A shape and one element's place (05: encoding a shape and placing one element). -/
theorem test_shape :
    shapeOf 0x140C2100#32 = ⟨40, 48, 0x21, false⟩ ∧ (shapeOf 0x140C2100#32).foot = 10 ∧
    elemBytes (shapeOf 0x140C2100#32) 13 29 = [1722, 1723] := by decide

/-- The encoding of a TGATH (06: a gather with repeated indices). -/
theorem test_tgath_fields :
    let i : Insn := 0x02200D0002200D00022006001626C000#128
    opOf i = 0x05 ∧ tdOf i = 4 ∧ taOf i = 2 ∧ tbOf i = 3 ∧ axOf i = 6 ∧ subOf i 0 1 = 0 ∧ shapeFault i = false := by decide

/-- The alias writes of a semaphore word (08: three meetings on one semaphore word). -/
theorem test_alias_write : aliasSet 0x00000001#32 0x00000020#32 = 0x00000021#32 ∧
    aliasClear 0x00000021#32 0x00000001#32 = 0x00000020#32 := by decide

/-- KZ_BLOCK_CAP of a KPE-H12 (17: set-up of hedgerow 5). -/
theorem test_block_cap : readReg State.reset 0x0008 = 0xC060401F#32 := by decide

/-- A register of hedgerow 5 written and read back (17: set-up of hedgerow 5). -/
theorem test_hedgerow_setup :
    (match exec (.registerWrite 0x9420 0x00010008) State.reset with
     | .next t => readReg t 0x9420 == 0x00010008#32 && (t.env.regs.hr.look 5).semWin == 0x00010008#32
     | _ => false) = true := by decide

/-- One MXFP4 block (03): the scale and the first four elements; the other values are 0. -/
theorem test_mxfp4_block :
    let x (w : Nat) : MxIn := ⟨(fmtOf 0x20).decode w 127, w, 0⟩
    let r := mxBlock (fmtOf 0x2C) false (rndOf 0) false
      ([x 0x41B00000, x 0xC0466666, x 0x3F666666, x 0x41200000] ++ List.replicate 28 (x 0))
    r.1 = 0x81 ∧ r.2.take 4 = [0x7, 0xA, 0x0, 0x4] := by decide

/-! ### States for the witnesses -/

/-- The fc domain with every hedgerow's state changed by `f`. -/
def allHr (e : Eng) (f : Hedgerow → Hedgerow) : Eng := { e with hr := Vector.ofFn (fun i : Fin 12 => f (e.hr.look i.val)) }

/-- A running block with every hedgerow in service. -/
def running : State :=
  { State.reset with eng := allHr { Eng.reset with phase := .running } (fun r => { r with mgmtIn := true }) }

/-- The reset state in another phase of a start. -/
def inPhase (p : Phase) : State := { State.reset with eng := { Eng.reset with phase := p } }

/-- A planner program's job on pleacher 0. -/
def job0 : Job := { (default : Job) with st := .running, desc := { (default : Desc) with prog := true } }

/-- The state with jobs, and pleacher 0 changed. -/
def withJobs (s : State) (js : List Job) (f : Pleacher → Pleacher) : State :=
  { s with eng := { s.eng with jobs := js, pl := s.eng.pl.upd 0 f } }

/-- Pleacher 0 runs `job0` and may issue `i`, whose row is buffered. -/
def issuing0 (i : Insn) : State :=
  withJobs running [job0] (fun p =>
    { p with phase := .running, buf := [⟨0, (upTo 16).map (fun k => BitVec.ofNat 8 (i.toNat / 256 ^ k))⟩] })

/-- The fc domain, hedgerow 0, the registers, or the Hedger changed. -/
def eng0 (s : State) (f : Eng → Eng) : State := { s with eng := f s.eng }
def hr0 (s : State) (f : Hedgerow → Hedgerow) : State := eng0 s (fun e => e.onHr 0 f)
def regs0 (s : State) (f : Regs → Regs) : State := { s with env := { s.env with regs := f s.env.regs } }
def hed0 (s : State) (f : Hedger → Hedger) : State := eng0 s (fun e => { e with hed := f e.hed })
def ao0 (s : State) (f : AlwaysOn → AlwaysOn) : State := { s with env := { s.env with ao := f s.env.ao } }
def sec0 (s : State) (f : Sec → Sec) : State := { s with env := { s.env with sec := f s.env.sec } }
def pins0 (s : State) (f : Pins → Pins) : State := { s with env := { s.env with pins := f s.env.pins } }

/-- Period domain 0 enabled and changed. -/
def dom0 (s : State) (f : Domain → Domain) : State := eng0 s (fun e => e.onDom 0 f)

/-- A loaded ring 0 whose context enables it. -/
def ring0 : Ring := { (default : Ring) with loaded := true, ctx := { (default : RingCtx) with enable := true } }

/-- A queue entry of ring 0 that a tick has handed over. -/
def entry0 : QJob := { (default : QJob) with arrived := true, handed := true }

/-! ### Every statement's hypotheses are met -/

theorem wit_front : { running with pending := [Instr.run] }.pending = [Instr.run] ∧ State.reset.pending = [] := by decide
theorem wit_completes : exec .run State.reset = .next State.reset ∧ exec .run running = .next running := ⟨rfl, rfl⟩
theorem wit_no_write : exec .run running = .next running ∧ writesRegs .run = false ∧ writesSec .mgmtReset = false :=
  ⟨rfl, rfl, rfl⟩
theorem wit_lock :
    let s := sec0 running (fun x => { x with cfg := 0x80000000#32 })
    wbit s.env.sec.cfg 31 = true ∧ exec .run s = .next s := ⟨by decide, rfl⟩
theorem wit_tamper :
    let s := sec0 running (fun x => { x with tamper := true })
    s.env.sec.tamper = true ∧ exec .run s = .next s := ⟨by decide, rfl⟩
theorem wit_window_inv : Clear 0xF0000000 running.env.regs.pollCfg ∧ step running = .next running := ⟨by decide, rfl⟩

theorem wit_start_fuse : State.reset.eng.phase = .reset ∧ State.reset.env.ao.fuseDone = false := by decide
theorem wit_start_power :
    let s := ao0 State.reset (fun a => { a with fuseDone := true })
    s.eng.phase = .reset ∧ s.env.ao.fuseDone = true := by decide
theorem wit_fuse_last :
    let s := ao0 (inPhase .fuse) (fun a => { a with unresolved := true })
    s.eng.phase = .fuse ∧ s.env.ao.fuseDone = false ∧ s.env.ao.unresolved = true := by decide

/-- KIND 1 at the last hedgerow and row, KIND 2 at the last row, and each reason to ignore a word (R340, R341). -/
theorem wit_fuse_words :
    let f (w : Nat) : Nat × Nat × Nat := (bits w 28 4, bits w 24 4, bits w 0 10)
    State.reset.env.ao.fuseDone = false ∧ State.reset.env.cfg.hedgerows = 12 ∧
    f 0x1BFC02FF = (1, 11, 767) ∧ f 0x2B03E07F = (2, 11, 127) ∧ f 0x00000000 = (0, 0, 0) ∧ f 0x40000000 = (4, 0, 0) ∧
    f 0x1C000000 = (1, 12, 0) ∧ f 0x10000300 = (1, 0, 768) ∧ f 0x20000080 = (2, 0, 128) ∧
    State.reset.env.cfg.large = true := by decide

theorem wit_start_fails :
    (inPhase .fuse).env.ao.fuseDone = false ∧ (inPhase .memory).eng.phase ∈ [Phase.fuse, .power, .logic, .memory] ∧
    (⟨true, [], [], [], []⟩ : LogicFails).block = true ∧ (⟨[], [], [], true, [], []⟩ : MemFails).control = true := by decide
theorem wit_no_hedgerow :
    let s := eng0 (inPhase .logic) (fun e => allHr e (fun r => { r with fenceCause := 1 }))
    s.eng.phase = .logic ∧ ∀ h, testsHr s.env h = true → hrIsFenced s.eng h = true := by
  refine ⟨by decide, fun h hh => ?_⟩
  have : h < 12 := by
    rcases Nat.lt_or_ge h 12 with x | x
    · exact x
    · have : testsHr (inPhase .logic).env h = false := by
        unfold testsHr Env.isHr
        have : ¬ h < (inPhase Phase.logic).env.cfg.hedgerows := Nat.not_lt.mpr x
        simp [this]
      rw [show testsHr (eng0 (inPhase .logic) _).env h = testsHr (inPhase .logic).env h from rfl, this] at hh
      cases hh
  exact (by decide : ∀ h, h < 12 →
    hrIsFenced (allHr (inPhase .logic).eng (fun r => { r with fenceCause := 1 })) h = true) h this
theorem wit_hedgerow_left :
    testsHr (inPhase .logic).env 11 = true ∧ hrIsFenced (inPhase .memory).eng 11 = false := by decide

theorem wit_power_ack :
    let up := pins0 (inPhase .power) (fun p => { p with pwrAck := Vector.replicate 12 0 })
    let off := pins0 running (fun p =>
      { p with pwrAck := Vector.replicate 12 15, pwrReq := Vector.replicate 12 0 })
    up.eng.phase = .power ∧ up.env.ackBit 11 3 = false ∧ off.eng.up = true ∧ off.env.ackBit 11 3 = true ∧
    off.env.reqBit 11 3 = false := by decide
theorem wit_power_down :
    let s := regs0 (inPhase .stopped) (fun r => { r with hr := r.hr.upd 11 (fun x => { x with pwr := 15 }) })
    s.eng.up = true ∧ s.env.reqBit 11 3 = false ∧ hrIsStopped s.eng 11 = true ∧ s.env.ao.qs = false ∧
    wbit (s.env.regs.hr.look 11).pwr 3 = true ∧ (s.eng.hr.look 11).turn = none := by decide
theorem wit_memory_clear :
    let s := hr0 running (fun r => { r with hbInit := true, lsInit := 3 })
    (s.eng.hr.look 0).hbInit = true ∧ s.eng.jobsOf 0 = [] ∧ bitOn (s.eng.hr.look 0).lsInit.toNat 0 = true ∧
    bitOn (s.eng.hr.look 0).lsInit.toNat 1 = true := by decide
theorem wit_retention :
    let s := regs0 running (fun r => { r with hr := r.hr.upd 0 (fun x => { x with memCfg := 0x00010001 }) })
    s.eng.phase = .running ∧ (s.env.regs.hr.look 0).memCfg.toNat % 65536 ≠ 0 ∧
    (s.env.regs.hr.look 0).memCfg.toNat / 65536 ≠ 0 ∧ s.env.isOff 0 (1 + 7 % 8 / 4) = false ∧ s.env.isOff 0 3 = false ∧
    bitOn (s.eng.hr.look 0).lsInit.toNat 1 = false ∧ (s.eng.hr.look 0).turn = none ∧
    (s.eng.hr.look 0).lsRet.look 7 = .awake ∧ (s.eng.hr.look 0).hbInit = false ∧ (s.eng.hr.look 0).hbRet = .awake := by
  decide
theorem wit_wake :
    let s := hr0 running (fun r => { r with lsRet := r.lsRet.put 7 .waking, hbRet := .waking })
    (s.eng.hr.look (7 / 8)).lsRet.look (7 % 8) = .waking ∧ (s.eng.hr.look 0).hbRet = .waking ∧ PlannerOnly s 0 := by
  unfold PlannerOnly Still; decide

theorem wit_run : (inPhase .stopped).eng.phase = .stopped ∧ (inPhase .stopped).eng.hed.tick = none := by decide
theorem wit_block_stop :
    let s := eng0 running (fun e => { e with jobs := [job0] })
    let done := eng0 running (fun e => { e with stop := some true })
    s.eng.phase = .running ∧ s.eng.jobAt (0, 0) = some job0 ∧ job0.st ≠ .ended ∧ done.eng.stop ≠ none ∧
    done.eng.hed.tick = none ∧ done.eng.hed.queue = [] ∧ done.eng.jobs = [] ∧ done.eng.hed.ends = [] ∧
    done.eng.hed.cfpWant = [] ∧ (∀ x ∈ done.eng.hed.cfpOut, x.timedOut = true) := by decide
theorem wit_hedgerow_stop :
    let s := eng0 running (fun e => { e with jobs := [job0] })
    let f := hr0 running (fun r => { r with fenceCause := 5 })
    let g := hr0 running (fun r => { r with stopping := true })
    hrIsFenced s.eng 0 = false ∧ s.eng.jobAt (0, 0) = some job0 ∧ job0.g / 8 = 0 ∧ hrIsFenced f.eng 0 = true ∧
    (g.eng.hr.look 0).stopping = true ∧ g.eng.jobsOf 0 = [] := by decide
theorem wit_hedgerow_start :
    let s := hr0 running (fun r => { r with stopped := true, mgmtIn := false })
    let o := regs0 s (fun r => { r with hr := r.hr.upd 0 (fun x => { x with pwr := 9 }) })
    s.eng.phase = .running ∧ offBit s.env 0 0 = false ∧ offBit s.env 0 3 = false ∧ hrIsFenced s.eng 0 = false ∧
    ready s.env s.eng 0 = true ∧ s.env.isOff 0 0 = false ∧ s.env.isOff 0 3 = false ∧ offBit o.env 0 0 = true ∧
    offBit o.env 0 3 = true := by decide
theorem wit_fence :
    let s := eng0 running (fun e => { e with jobs := [job0, { job0 with g := 8 }] })
    let d := hr0 running (fun r => { r with draining := true })
    inService s.env s.eng 0 = true ∧ s.eng.jobAt (0, 0) = some job0 ∧ s.eng.jobAt (8, 0) = some { job0 with g := 8 } ∧
    (d.eng.hr.look 0).draining = true ∧ d.eng.busy 0 = false := by decide
theorem wit_parity :
    (running.eng.hr.look 11).mgmtIn = true ∧ ((inPhase .stopped).eng.hr.look 11).mgmtIn = false ∧
    running.eng.phase ≠ .reset ∧ running.eng.phase ≠ .failed := by decide
theorem wit_readmit :
    let s := hr0 running (fun r => { r with fenceCause := 5 })
    let t := hr0 running (fun r => { r with testing := true })
    let u := hr0 running (fun r => { r with testRun := true })
    hrIsFenced s.eng 0 = true ∧ (s.eng.hr.look 0).draining = false ∧ (s.eng.hr.look 0).testing = false ∧
    (t.eng.hr.look 0).testing = true ∧ (t.eng.hr.look 0).testRun = false ∧ ready t.env t.eng 0 = true ∧
    (t.eng.hr.look 0).turn = none ∧ (u.eng.hr.look 0).testRun = true ∧ u.eng.stop = none ∧
    (⟨true, false⟩ : SliceObs).full = true ∧ (u.eng.hr.look 0).cnt.bistPass.toNat + 9 < 2 ^ 32 := by decide

/-- The lowest and the highest of the read-write registers, and one of each optional unit. -/
theorem wit_rw_registers :
    let c := running.env.cfg
    rwBits 0x0200 ≠ 0 ∧ rwBits 0x1000 ≠ 0 ∧ rwBits 0x11E0 ≠ 0 ∧ rwBits 0x2000 ≠ 0 ∧ rwBits 0x2400 ≠ 0 ∧
    rwBits 0x25F8 ≠ 0 ∧ rwBits 0xAC40 ≠ 0 ∧ c.phase = true ∧ c.iwp = true ∧ (0xAC40 - 0x8000) / 0x400 < c.hedgerows := by
  decide

/-- KPE-H2 without optional units. -/
def small : State :=
  { State.reset with env := { State.reset.env with cfg := { kind := .h2, optPhase := false, optIwp := false, optPrivet := false, optRcExt := false, optRingFull := false } } }

theorem wit_absent_units :
    let c := small.env.cfg
    0x8000 + 0x400 * c.hedgerows ≤ 0xFFFC ∧ 0x3000 + 4 * (8 * c.hedgerows) ≤ 0x7FFC ∧ c.phase = false ∧
    c.privet = false ∧ c.iwp = false ∧ unoccupied 0x0014 = true ∧ unoccupied 0xFFFC = true := by decide
theorem wit_domain_write :
    running.eng.phase ≠ .reset ∧ running.env.cfg.phase = true ∧
    (State.reset.eng.phase ≠ .running ∧ wbit State.reset.env.sec.cfg 31 = false) ∧ running.env.cfg.iwp = true := by decide
theorem wit_soft_repair :
    let s := hr0 running (fun r => { r with stopped := true })
    s.eng.phase ≠ .failed ∧ hrIsStopped s.eng 0 = true ∧ hrIsStopped running.eng 0 = false ∧
    hrIsFenced running.eng 0 = false ∧ bits 0x10FC02FF 24 4 = 0 ∧ bits 0x10FC02FF 0 10 = 767 ∧
    bits 0x2003E07F 24 4 = 0 ∧ bits 0x2003E07F 0 10 = 127 := by decide
theorem wit_repair_log :
    (List.replicate 63 (0 : W32)).length < 64 ∧ 64 ≤ (List.replicate 64 (0 : W32)).length := by decide

/-- Period domains 0 and 15 enabled, with a job bound to domain 15. -/
def bound15 : Job :=
  { job0 with bound := true, desc := { job0.desc with domain := 15 }, win := some ⟨0, true, false⟩ }
theorem wit_domain :
    let s := regs0 running (fun r => { r with pd := r.pd.upd 15 (fun x => { x with cfg := 0x80010000 }) })
    let t := eng0 s (fun e => { e with jobs := [bound15] })
    wbit (running.env.regs.pd.look 15).cfg 31 = false ∧ wbit 0x80010000#32 31 = true ∧
    wbit (t.env.regs.pd.look 15).cfg 31 = true ∧ wbit 0x00010000#32 31 = false ∧
    bits (t.env.regs.pd.look 15).cfg.toNat 16 11 ≠ bits (0x81010000#32 &&& 0x87FFFFFF#32).toNat 16 11 ∧
    t.eng.jobAt (0, 0) = some bound15 ∧ bound15.st ≠ .ended ∧ bound15.bound = true := by decide

theorem wit_poll :
    let s := eng0 running (fun e => { e with stop := some true })
    running.eng.phase = .running ∧ running.eng.stop = none ∧ running.eng.hed.tick = none ∧ s.eng.stop ≠ none := by decide

/-- A tick that waits for its summary line `l` of `n`, doorbells and tables; a read of the Hedger under tag 0. -/
def waiting (lines dbs tbls : List Nat) : Tick := ⟨1, 16, 0, lines, [], dbs, tbls, false, [], []⟩
def reading (who : CfpWho) (tk : Tick) : State :=
  hed0 running (fun h => { h with tick := some tk, rings := [ring0], cfpOut := [⟨0, who, 0, 64, false, [], false⟩] })

theorem wit_summary :
    let s := reading (.summary 0) (waiting [0] [] [3])
    Reading s 0 ⟨0, .summary 0, 0, 64, false, [], false⟩ ∧ s.eng.hed.tick = some (waiting [0] [] [3]) ∧
    (waiting [0] [] [3]).nextLine = 0 ∧ (waiting [0] [] [3]).nLines = 0 + 1 ∧ (waiting [0] [] [3]).tables ≠ [] := by
  unfold Reading; decide
theorem wit_doorbell :
    let s := reading (.doorbell 0) (waiting [1] [0] [])
    Reading s 0 ⟨0, .doorbell 0, 0, 64, false, [], false⟩ ∧ (waiting [1] [0] []).lines ≠ [] ∧
    (s.eng.hed.ring 0).loaded = true ∧ (s.eng.hed.ring 5).loaded = false ∧
    (s.eng.hed.ring 5).c = (s.eng.hed.ring 5).f := by unfold Reading; decide
theorem wit_table :
    let s := reading (.table 65535 1 255) (waiting [1] [] [65535])
    Reading s 0 ⟨0, .table 65535 1 255, 0, 64, false, [], false⟩ ∧
    s.eng.hed.tick = some (waiting [1] [] [65535]) := by unfold Reading; decide
theorem wit_descriptor :
    let s := hed0 (reading (.descr 0 0) (waiting [1] [] [])) (fun h => { h with queue := [default] })
    Reading s 0 ⟨0, .descr 0 0, 0, 64, false, [], false⟩ ∧ (default : QJob) ∈ s.eng.hed.queue ∧
    (default : QJob).ring = 0 ∧ (default : QJob).seq = 0 ∧ (default : QJob).handed = false ∧
    (∀ j ∈ s.eng.hed.queue, j.ring = 0 → j.seq = 0 → j = default) := by unfold Reading; decide
theorem wit_fetch :
    let tk : Tick := { waiting [] [] [] with fetching := true, plan := [0] }
    let s := hed0 running (fun h => { h with tick := some tk, rings := [ring0] })
    s.eng.hed.tick = some tk ∧ tk.fetching = true ∧ tk.plan = [0] ∧ tk.lines = [] ∧ tk.got = [] ∧ tk.doorbells = [] ∧
    tk.tables = [] ∧ s.eng.hed.queue.length < 512 ∧ ringEntries s.eng 0 < 64 ∧
    (∀ i ∈ s.eng.hed.queue, i.ring = 0 → i.seq ≠ (s.eng.hed.ring 0).f) := by decide
theorem wit_fetch_full :
    512 ≤ (hed0 running (fun h => { h with queue := List.replicate 512 entry0 })).eng.hed.queue.length := by
  show 512 ≤ (List.replicate 512 entry0).length
  exact Nat.le_of_eq (List.length_replicate (n := 512) (a := entry0)).symm

/-- A head of ring 0 held by its fence, SEQ `n`, while C of the ring is 0. -/
def fencedHead (n : W32) : QJob := { entry0 with seq := n, desc := { entry0.desc with ringFence := true } }
theorem wit_ring_fence :
    let s (n : W32) := hed0 running (fun h => { h with rings := [ring0], queue := [fencedHead n] })
    (s 0).eng.hed.head 0 = some (fencedHead 0) ∧ (fencedHead 0).handed = true ∧ (fencedHead 0).ordered = false ∧
    (fencedHead 0).bad = none ∧ (fencedHead 0).win = none ∧ (fencedHead 0).desc.phaseEn = false ∧
    ((s 0).eng.hed.ring 0).c = (fencedHead 0).seq ∧ ((s 1).eng.hed.ring 0).c ≠ (fencedHead 1).seq := by decide

/-- The admission order holds entry `q` alone. -/
def ordering (s : State) (q : QJob) : State :=
  hed0 s (fun h => { h with rings := [ring0], queue := [q], order := [(q.ring, q.seq)] })
theorem wit_admission :
    let s := ordering running entry0
    let b : QJob := { entry0 with bad := some .fabricError }
    let p : QJob := { entry0 with desc := { entry0.desc with pin := 1 } }
    let f := hr0 (ordering running p) (fun r => { r with mgmtIn := false })
    let n := { running with env := { running.env with ao := { running.env.ao with qs := true } }, eng := inPhase .stopped |>.eng }
    s.eng.hed.order = [(0, 0)] ∧ s.eng.hed.queue.find? (fun q => q.ring == 0 && q.seq == 0) = some entry0 ∧
    pinServed s.env s.eng entry0.desc = true ∧ (choosePleacher s.env s.eng entry0).isSome = true ∧
    (slotFor s.eng 0).isSome = true ∧ b.bad = some .fabricError ∧ pinServed f.env f.eng p.desc = false ∧
    pinServed n.env n.eng entry0.desc = true ∧ choosePleacher n.env n.eng entry0 = none := by decide
theorem wit_choice :
    choosePleacher (ordering running entry0).env (ordering running entry0).eng entry0 = some 0 ∧
    canTake (ordering running entry0).env (ordering running entry0).eng entry0 95 = true := by decide

/-- A record in front, for the ended job in slot (0, 0). -/
def due : State :=
  hed0 (eng0 running (fun e => { e with jobs := [{ job0 with st := .ended, status := some .droppedLate }] }))
    (fun h => { h with rings := [ring0], ends := [⟨0, 0, some (0, 0), .droppedLate, 0, 0, 0, 0⟩] })
theorem wit_record :
    due.eng.hed.ends = [⟨0, 0, some (0, 0), .droppedLate, 0, 0, 0, 0⟩] ∧ (due.eng.jobAt (0, 0)).isSome = true ∧
    (due.eng.hed.ring 0).ctx.ordered = false ∧ job0.desc.mirrorEn = false ∧ job0.g < 96 ∧ job0.desc.domain < 16 := by decide

/-- READY jobs on pleacher 0. -/
def readyJob (slot stamp : Nat) : Job := { job0 with slot := slot, st := .ready, stamp := stamp }
theorem wit_select :
    let s := withJobs running [readyJob 0 5, readyJob 31 4] id
    (s.eng.pl.look 0).phase = .idle ∧ (s.eng.hr.look 0).turn = none ∧ (s.eng.hr.look 0).testRun = false ∧
    firstOf (eligible s.eng 0) = some (readyJob 31 4) ∧ (readyJob 31 4).saved = none ∧ eligible running.eng 0 = [] ∧
    (s.eng.jobs.map Job.key).Nodup := by decide
theorem wit_job_start :
    let s := withJobs running [readyJob 0 0] (fun p => { p with phase := .selected })
    (s.eng.pl.look 0).phase = .selected ∧ s.eng.curJob 0 = some (readyJob 0 0) ∧ savedOut s.eng 0 = true ∧
    Quiet s 0 ∧ (readyJob 0 0).desc.prog = true := by unfold Quiet; decide
theorem wit_staging :
    let j : Job := { job0 with staged := true, stage := .owed }
    let s := withJobs running [j] (fun p => { p with phase := .running })
    let k : Job := { job0 with staged := true, stage := .copying }
    let t := withJobs running [k] (fun p => { p with phase := .running })
    s.eng.curJob 0 = some j ∧ Quiet s 0 ∧ s.env.ao.qs = false ∧
    (s.eng.touchAll s.env j.key (j.boxes.map boxAccess)).2 = .ok ∧ t.eng.curJob 0 = some k ∧ k.xq = [] ∧
    readsOut t.eng k = false ∧ writesOut t.eng k.key = false := by unfold Quiet; decide
theorem wit_row_fetch :
    let s := withJobs running [job0] (fun p => { p with phase := .running, fetch := [0, 512] })
    let r := hr0 s (fun r => { r with hbRet := .retained })
    s.eng.curJob 0 = some job0 ∧ (s.eng.pl.look 0).fetch = [0, 512] ∧ BankServes s 0 ∧ r.env.isOff 0 3 = false ∧
    (r.eng.hr.look 0).hbInit = false ∧ (r.eng.hr.look 0).hbRet = .retained := by unfold BankServes; decide
theorem wit_quantum :
    let s := withJobs running [job0, readyJob 31 0] (fun p => { p with phase := .running })
    let t := withJobs running [job0] (fun p => { p with phase := .running })
    s.eng.curJob 0 = some job0 ∧ job0.status = none ∧ job0.secure = false ∧ (s.eng.hr.look 0).turn = none ∧
    (s.eng.hr.look 0).testRun = false ∧ Quiet s 0 ∧ (s.eng.jobs.map Job.key).Nodup ∧
    (s.eng.pl.look 0).wait ≠ .yielding ∧ ((s.eng.pl.look 0).running s.eng job0 0) = [] ∧ job0.st = .running ∧
    firstOf (eligible s.eng 0) = some (readyJob 31 0) ∧ eligible t.eng 0 = [] := by unfold Quiet; decide
theorem wit_save :
    let j : Job := { job0 with g := 95, slot := 31, st := .suspended }
    let s := eng0 running (fun e => { e with jobs := [j] })
    s.eng.jobAt (95, 31) = some j ∧ j.status = none ∧ j.onPleacher s.eng = false ∧ (∀ r ∈ j.xq, r.purpose ≠ .save) ∧
    (∀ x ∈ (s.eng.hr.look (95 / 8)).xacts, ¬(x.owner = (95, 31) ∧ x.purpose = .save ∧ x.timedOut = false)) := by decide
theorem wit_restore :
    let j : Job := { readyJob 0 0 with saved := some Ctx.reset, savedOk := true, saveAt := .host }
    let s := withJobs running [j] (fun p => { p with phase := .restoring })
    s.eng.curJob 0 = some j ∧ readsOut s.eng j = false ∧ savedOut s.eng 0 = true ∧ j.status = none ∧
    j.saved = some Ctx.reset ∧ j.saveAt = .host ∧ Quiet s 0 := by unfold Quiet; decide

/-! Instructions: the opcode in bits [31:26], SD in W3, SA in W2, SB in W1. -/

/-- An instruction from its opcode, SUB, and its three upper words. -/
def insn (op sub w1 w2 w3 : Nat) : Insn :=
  BitVec.ofNat 128 (op * 2 ^ 26 + 4 * 2 ^ 23 + 2 * 2 ^ 20 + 3 * 2 ^ 17 + sub + w1 * 2 ^ 32 + w2 * 2 ^ 64 + w3 * 2 ^ 96)

/-- 4 x 4 SINT8, 4 x 8 SINT8, 8 x 4 SINT8, 4 x 4 UINT16. -/
def s44 : Nat := 0x02010D00
def s48 : Nat := 0x02020D00
def s84 : Nat := 0x04010D00
def u44 : Nat := 0x02010600

/-- Every register is free. -/
def freeRegs (s : State) (reads writes : List Nat) (shadow : Bool) : Bool :=
  scoreboard s.eng (s.eng.pl.look 0) job0 reads writes shadow

theorem wit_shape_fault :
    let i := insn 0x04 0 0 s48 s44
    MayIssue (issuing0 i) 0 job0 i ∧ shapeFault i = true ∧ job0.secure = false := by unfold MayIssue; decide
theorem wit_image : (shapeOf 0x140C2100#32).bad = false ∧ (shapeOf 0xFFFFCD00#32).bad = true := by decide

theorem wit_txp : let i := insn 0x04 0 0 s48 s84
    MayIssue (issuing0 i) 0 job0 i ∧ opOf i = 0x04 ∧ shapeFault i = false ∧ freeRegs (issuing0 i) [2] [4] false = true := by
  unfold MayIssue; decide
theorem wit_tgath : let i := insn 0x05 0 u44 s44 s44
    let k := insn 0x05 1 0x00810600 s44 s44
    MayIssue (issuing0 i) 0 job0 i ∧ opOf i = 0x05 ∧ shapeFault i = false ∧ subOf i 0 1 = 0 ∧
    MayIssue (issuing0 k) 0 job0 k ∧ shapeFault k = false ∧ subOf k 0 1 = 1 := by unfold MayIssue; decide
theorem wit_tscat : let i := insn 0x06 0 u44 s44 s44
    let k := insn 0x06 2 u44 s44 s44
    MayIssue (issuing0 i) 0 job0 i ∧ opOf i = 0x06 ∧ shapeFault i = false ∧ subOf i 1 1 = 0 ∧
    MayIssue (issuing0 k) 0 job0 k ∧ shapeFault k = false ∧ subOf k 1 1 = 1 := by unfold MayIssue; decide
theorem wit_tplane : let i := insn 0x07 3 0 s44 s44
    MayIssue (issuing0 i) 0 job0 i ∧ opOf i = 0x07 ∧ shapeFault i = false := by unfold MayIssue; decide
theorem wit_tswz : let i := insn 0x08 0 0 s44 s44
    MayIssue (issuing0 i) 0 job0 i ∧ opOf i = 0x08 ∧ shapeFault i = false := by unfold MayIssue; decide
theorem wit_tfill : let i := insn 0x09 0 0 0 s44
    let k := insn 0x09 1 1 s44 s48
    MayIssue (issuing0 i) 0 job0 i ∧ opOf i = 0x09 ∧ shapeFault i = false ∧ subOf i 0 1 = 0 ∧
    MayIssue (issuing0 k) 0 job0 k ∧ shapeFault k = false ∧ subOf k 0 1 = 1 := by unfold MayIssue; decide
theorem wit_tcat : let i := insn 0x0A 0 s44 s44 s48
    let k := insn 0x0A 1 0x04100D00 0x04100D00 0x08100D00
    MayIssue (issuing0 i) 0 job0 i ∧ opOf i = 0x0A ∧ shapeFault i = false ∧ subOf i 0 1 = 0 ∧
    MayIssue (issuing0 k) 0 job0 k ∧ shapeFault k = false ∧ subOf k 0 1 = 1 := by unfold MayIssue; decide
theorem wit_tmov : let i := insn 0x0B 0 0 s44 u44
    MayIssue (issuing0 i) 0 job0 i ∧ opOf i = 0x0B ∧ shapeFault i = false ∧ subOf i 0 3 = 0 ∧
    freeRegs (issuing0 i) [2] [4] false = true := by unfold MayIssue; decide

/-- TLD from each space, TST to each, and a privet access that is not admitted. -/
theorem wit_tld (space : Nat) (h : space < 3) : let i := insn 0x01 space 0 s44 s44
    MayIssue (issuing0 i) 0 job0 i ∧ opOf i = 0x01 ∧ shapeFault i = false ∧ subOf i 0 2 = space ∧ Quiet (issuing0 i) 0 ∧
    freeRegs (issuing0 i) [] [4] false = true ∧
    storePending (issuing0 i).eng job0 space (operandAt ((issuing0 i).eng.pl.look 0).ctx i) 64 = false ∧
    ((issuing0 i).eng.touchAll (issuing0 i).env (0, 0) (blockOf job0 (operandSpots job0 0 space 0 64))).2 = .ok := by
  unfold MayIssue Quiet
  match space, h with
  | 0, _ => decide
  | 1, _ => decide
  | 2, _ => decide
theorem wit_tst (space : Nat) (h : space < 3) : let i := insn 0x02 space 0 s44 s44
    MayIssue (issuing0 i) 0 job0 i ∧ opOf i = 0x02 ∧ shapeFault i = false ∧ subOf i 0 2 = space ∧
    freeRegs (issuing0 i) [2] [] false = true := by
  unfold MayIssue
  match space, h with
  | 0, _ => decide
  | 1, _ => decide
  | 2, _ => decide
theorem wit_privet_move :
    let s := sec0 running (fun x => { x with lcs := some 6 })
    pvAdmits { s.env with sec := { s.env.sec with lcs := some 6 } } { s.eng with privetOn := true } true = true ∧
    pvAdmits running.env running.eng job0.secure = false ∧ job0.secure = false := by decide

/-- A MAP selector with identifier 9 at grain 5, its binding, and a route for it in the cache. -/
def mapSel : W64 := 0x7A00000000000009#64
def withSel (sel : W64) (s : State) : State :=
  eng0 s (fun e => e.onPl 0 (fun p => { p with ctx := { p.ctx with a := p.ctx.a.put 0 sel } }))
theorem wit_tperm :
    let i := insn 0x03 0 0 s44 s44
    let m := withSel mapSel (issuing0 i)
    let c := withSel 0x8000000000000009#64 (issuing0 i)
    let r : Route := ⟨cacheSet 16 9, 0, 9, 5, [], 0⟩
    MayIssue (issuing0 i) 0 job0 i ∧ opOf i = 0x03 ∧ shapeFault i = false ∧ freeRegs (issuing0 i) [2] [4] false = true ∧
    selMapped (((issuing0 i).eng.pl.look 0).ctx.a.look (axOf i)) = false ∧ MayIssue m 0 job0 i ∧ selMapped mapSel = true ∧
    (bindingFor (m.eng.pl.look 0).ctx mapSel).isSome = true ∧ selId mapSel = 9 ∧
    cacheFind (cacheSets m.env.cfg) [r] 9 = some r ∧ cacheFind (cacheSets m.env.cfg) [] 9 = none ∧ BankServes m 0 ∧
    (m.eng.pl.look 0).build = none ∧ (bindingOf mapSel).space ≠ 1 ∧ MayIssue c 0 job0 i ∧
    selMapped 0x8000000000000009#64 = true ∧ bindingFor (c.eng.pl.look 0).ctx 0x8000000000000009#64 = none := by
  unfold MayIssue BankServes; decide
theorem wit_route_build :
    let b : Build := ⟨9, 5, [], none⟩
    let s := withJobs running [job0] (fun p => { p with phase := .running, build := some b })
    (s.eng.pl.look 0).build = some b ∧ s.eng.curJob 0 = some job0 ∧ job0.desc.prog = true ∧ b.pend = none := by decide

/-- A flight with image `img` for register 7 or the bank. -/
def flight (d : Deliver) : Flight := ⟨3, [], [7], false, 1, 0, 64, false, d, [], false, Ctx.reset⟩
def flying (d : Deliver) : State := withJobs running [job0] (fun p => { p with phase := .running, flights := [flight d] })
theorem wit_retire_register :
    let d := Deliver.reg 7 (BitVec.ofNat 32 s44) [1, 2]
    let s := flying d
    s.eng.curJob 0 = some job0 ∧ (s.eng.pl.look 0).flights.find? (fun f => f.id == 3) = some (flight d) ∧
    (s.eng.pl.look 0).wait ≠ .yielding ∧ [1, 2].length ≤ 8192 ∧ (flight d).mid.length ≤ 8192 ∧
    Mem.wf (s.eng.pl.look 0).tile := by decide
theorem wit_retire_store :
    let d := Deliver.store 1 0xFFFFF [1, 2]
    let s := flying d
    s.eng.curJob 0 = some job0 ∧ (s.eng.pl.look 0).flights.find? (fun f => f.id == 3) = some (flight d) ∧
    [1, 2].length ≤ 2 ^ 20 ∧ BankServes s 0 ∧ MemInv s := by unfold BankServes MemInv; decide

theorem wit_scalar_moves (mode : Nat) (h : mode < 8) : let i := insn 0x0B mode 0 0 0
    MayIssue (issuing0 i) 0 job0 i ∧ opOf i = 0x0B ∧ subOf i 0 3 = mode ∧ subOf i 3 1 = 0 ∧
    (∀ f ∈ ((issuing0 i).eng.pl.look 0).flights, tdOf i ∉ f.reads ∧ tdOf i ∉ f.writes) := by
  unfold MayIssue
  match mode, h with
  | 0, _ => decide
  | 1, _ => decide
  | 2, _ => decide
  | 3, _ => decide
  | 4, _ => decide
  | 5, _ => decide
  | 6, _ => decide
  | 7, _ => decide
theorem wit_header_write : let i := insn 0x0B 9 0 0 s44
    MayIssue (issuing0 i) 0 job0 i ∧ subOf i 0 3 = 1 ∧ subOf i 3 1 = 1 ∧ shapeFault i = false := by
  unfold MayIssue; decide
theorem wit_loop_br : let i := insn 0x11 0x0E00 0xFFFFFFFF 0 0
    let b := insn 0x12 2 1 0 0
    MayIssue (issuing0 i) 0 job0 i ∧ opOf i = 0x11 ∧ subOf i 9 3 = 7 ∧ MayIssue (issuing0 b) 0 job0 b ∧ opOf b = 0x12 ∧
    subOf b 0 2 = 2 := by unfold MayIssue; decide
theorem wit_pwait :
    let i := insn 0x10 15 1 0 0
    let s := eng0 (issuing0 i) (fun e => e.onDom 15 (fun m => { m with st := .running }))
    let w := eng0 (issuing0 0) (fun e =>
      (e.onDom 15 (fun m => { m with st := .running })).onPl 0 (fun p => { p with wait := .pwait 15 1 }))
    MayIssue (issuing0 i) 0 job0 i ∧ opOf i = 0x10 ∧ comparatorTaken (issuing0 i).eng 0 = false ∧
    ((issuing0 i).eng.dom.look (subOf i 0 4)).st = .disabled ∧ MayIssue s 0 job0 i ∧ s.env.phaseOn = true ∧
    (s.eng.dom.look (subOf i 0 4)).st = .running ∧ (s.eng.dom.look 15).phase.toNat < 1 ∧
    (w.eng.pl.look 0).wait = .pwait 15 1 ∧ (w.eng.dom.look 15).st = .running ∧
    1 ≤ (BitVec.ofNat 24 (((w.eng.dom.look 15).k * 2 ^ 24 + 1) / domDiv w.env 15)).toNat := by unfold MayIssue; decide
theorem wit_fence_end (op : Nat) (h : op = 0x13 ∨ op = 0x00 ∨ op = 0x3F) : let i := insn op 0 0 0 0
    MayIssue (issuing0 i) 0 job0 i ∧ opOf i = op ∧ ((issuing0 i).eng.pl.look 0).flights = [] ∧
    writesPending (issuing0 i).eng job0 = false ∧ job0.undef = false ∧ opListed 0x3F = false := by
  unfold MayIssue
  rcases h with h | h | h <;> subst h <;> decide
theorem wit_sync :
    let i := insn 0x14 2 1 0 1
    let k := insn 0x14 2 1 1 1
    let w := eng0 (issuing0 i) (fun e => e.onPl 0 (fun p => { p with wait := .sync }))
    let half := (issuing0 i).eng.mem.word (.bank 0) (syncAt ((issuing0 i).eng.pl.look 0).ctx i)
    MayIssue (issuing0 i) 0 job0 i ∧ opOf i = 0x14 ∧ MemInv (issuing0 i) ∧ BankServes (issuing0 i) 0 ∧
    writesPending (issuing0 i).eng job0 = false ∧ half &&& w1Of i = w2Of i &&& w1Of i ∧
    half &&& w1Of k ≠ w2Of k &&& w1Of k ∧ (w.eng.pl.look 0).wait = .sync ∧ w.eng.curJob 0 = some job0 ∧
    (w.eng.pl.look 0).insn = some i := by unfold MayIssue MemInv BankServes; decide

/-- A transaction of `job0`'s on port 0 under tag 0. -/
def xact (w : Bool) (p : Purpose) : Xact := { (default : Xact) with write := w, purpose := p, live := true, len := 128 }
def onPort (x : Xact) : State :=
  hr0 (withJobs running [job0] (fun p => { p with phase := .running })) (fun r => { r with xacts := [x] })
theorem wit_read_beat :
    let x := xact false (.data 5)
    let s := onPort x
    (∀ y ∈ (running.eng.hr.look 11).xacts, y.tag ≠ 511) ∧ (s.eng.hr.look 0).xacts.find? (fun x => x.tag == 0) = some x ∧
    x.write = false ∧ x.timedOut = false ∧ x.live = true ∧ x.erred = false ∧ x.purpose = .data 5 ∧ Mem.wf job0.rd ∧
    s.eng.jobAt x.owner = some job0 ∧ job0.admitSeq = x.adm ∧ job0.st ≠ .ended ∧ PlannerOnly s 0 := by
  unfold PlannerOnly Still; decide
theorem wit_write_response :
    let x := xact true .dest
    let s := onPort x
    (s.eng.hr.look 0).xacts.find? (fun x => x.tag == 0) = some x ∧ x.write = true ∧ x.timedOut = false ∧
    PlannerOnly s 0 ∧ job0.status = none ∧
    s.eng.jobAt x.owner = some job0 ∧ job0.admitSeq = x.adm := by unfold PlannerOnly Still; decide
theorem wit_record_response :
    let x : CfpX := ⟨130, .record 0 true, 0, 32, false, [], false⟩
    let s := hed0 running (fun h => { h with cfpOut := [x] })
    s.eng.hed.cfpOut.find? (fun x => x.tag == 130) = some x ∧ x.timedOut = false ∧ x.who = .record 0 true ∧
    s.eng.hed.cfpWant = [] := by decide
theorem wit_inbound_response :
    let x : MwX := ⟨63, 4, 0, 0, [], false⟩
    let u : IwpTx := ⟨4, 1, 2, 3, 1, false⟩
    let s := eng0 running (fun e => { e with iwp := { e.iwp with out := [x], txs := [u] } })
    s.env.cfg.iwp = true ∧ s.eng.iwp.out.find? (fun x => x.tag == 63) = some x ∧ x.timedOut = false ∧
    s.eng.iwp.txs.find? (fun t => t.num == x.num) = some u ∧ u.left = 1 ∧ s.eng.iwp.want = [] := by decide
theorem wit_timeout :
    let x := xact false (.data 5)
    let s := onPort x
    let z := regs0 s (fun r => { r with fabTmo := 0 })
    (s.eng.hr.look 0).xacts.find? (fun x => x.tag == 0 && !x.timedOut) = some x ∧ tmoOf s.env x.sc ≠ 0 ∧
    s.eng.iface.quiesce = false ∧ s.eng.iface.train = false ∧ Quiet s 0 ∧ tmoOf z.env x.sc = 0 := by unfold Quiet; decide

theorem wit_source_wrap :
    let s := regs0 running (fun r => { r with pd := r.pd.upd 15 (fun x => { x with cfg := 0x80FFFFFF }) })
    let m : Domain := { (default : Domain) with st := .running, k := 254 }
    s.env.cfg.phase = true ∧ domSrc s.env 15 = 0 ∧ (1#6).toNat.testBit (domSrc s.env 15) = true ∧
    m.k + 1 < 256 ∧ domDiv s.env 15 = 255 ∧ domDiv s.env 15 ≤ m.k + 1 ∧
    bits (s.env.regs.pd.look 15).cfg.toNat 0 16 ≠ 0 ∧ m.stalled = false ∧
    bits (running.env.regs.pd.look 15).cfg.toNat 0 16 = 0 := by decide

/-- A running domain 0 at phase 10, a head whose window opens there, and a job whose window closes there. -/
def phased : State := dom0 (regs0 running (fun r => { r with pd := r.pd.upd 0 (fun x => { x with cfg := 0x80010000 }) })) (fun m => { m with st := .running })
def ph10 : Phases := Vector.replicate 6 10
def opening : QJob :=
  { entry0 with desc := { entry0.desc with phaseEn := true, openPhase := 10, closePhase := 20 }, win := some ⟨0, false, false⟩ }
def closing : Job :=
  { job0 with bound := true, desc := { job0.desc with openPhase := 5, closePhase := 10 }, win := some ⟨0, true, false⟩ }
theorem wit_window_open :
    let s := hed0 phased (fun h => { h with rings := [ring0], queue := [opening] })
    s.env.phaseOn = true ∧ s.eng.stop = none ∧
    (∀ i ∈ s.eng.hed.queue, opensNow (s.eng.sample s.env ph10) i = true →
      closesQueued (s.eng.sample s.env ph10) i = false) ∧
    s.eng.hed.head 0 = some opening ∧ (∃ r ∈ s.eng.hed.rings, r.num = 0) ∧
    opensNow (s.eng.sample s.env ph10) opening = true ∧ opening.handed = true ∧ opening.desc.ringFence = false := by decide
theorem wit_window_close :
    let o : Job := { closing with slot := 31, desc := { closing.desc with closePhase := 11 } }
    let s := eng0 phased (fun e => { e with jobs := [closing, o] })
    s.env.phaseOn = true ∧ s.eng.jobAt (0, 0) = some closing ∧ closesJob (s.eng.sample s.env ph10) closing = true ∧
    closing.win = some ⟨0, true, false⟩ ∧ closing.desc.domain < 16 ∧ s.eng.jobAt (0, 31) = some o ∧ o.bound = true ∧
    o.st ≠ .ended ∧ closesJob (s.eng.sample s.env ph10) o = false ∧
    (∀ i ∈ s.eng.hed.queue, opensNow (s.eng.sample s.env ph10) i = false) := by decide
theorem wit_fc_restart :
    let s := eng0 (ao0 running (fun a => { a with qs := true })) (fun e => { e with wipe := .waiting })
    s.env.phaseOn = false ∧ s.eng.wipe = .waiting ∧ s.eng.phase ≠ .reset := by decide

/-- Window 31 open over one page at 0; a write of its last byte, and of the byte after it. -/
theorem wit_inbound :
    let s := regs0 (eng0 running (fun e => { e with iwp := { e.iwp with opened := 0x80000000 } }))
      (fun r => { r with win := r.win.upd 31 (fun x => { x with size := 1 }) })
    let d : List (Option Byte) := List.replicate 63 none ++ [some 1]
    iwpReady s.env s.eng = true ∧ wbit s.eng.iwp.opened (31#6).toNat = true ∧ (s.env.regs.win.look 31).size.toNat % 2 ^ 20 ≠ 0 ∧
    s.env.ao.qs = false ∧ insideWin s.env 31 4032 d = true ∧ insideWin s.env 31 4096 d = false ∧
    4032 % 4096 + d.length ≤ 4096 := by decide
theorem wit_inbound_taken :
    (eng0 running (fun e => { e with iwp := { e.iwp with resps := [⟨1, 2, 2, 31⟩] } })).eng.iwp.resps = [⟨1, 2, 2, 31⟩] := by decide
theorem wit_handshakes :
    let s := eng0 running (fun e => { e with iface := { e.iface with clkReq := true } })
    let q := eng0 running (fun e => { e with iface := { e.iface with quiesce := true, train := true } })
    s.eng.iface.clkReq = true ∧ s.eng.iface.train = false ∧ sc0Out s.eng = 0 ∧ running.eng.iface.clkReq = false ∧
    s.eng.jobs = [] ∧ s.eng.hed.cfpWant = [] ∧ s.eng.iwp.want = [] ∧ q.eng.iface.quiesce = true ∧ q.eng.iface.train = true := by
  decide

theorem wit_lifecycle :
    let a := sec0 running (fun x => { x with lcs := some 6 })
    let p := eng0 a (fun e => { e with privetOn := true })
    let z := eng0 p (fun e => { e with wipe := .zeroing })
    let r := eng0 p (fun e => { e with wipe := .readback })
    running.env.sec.lcs = none ∧ a.env.sec.lcs = some 6 ∧ (9#4) ≠ 6 ∧ p.eng.privetOn = true ∧
    (∀ j ∈ p.eng.jobs, savingPrivet p.eng j = false) ∧ p.env.sec.tamper = false ∧ z.eng.wipe = .zeroing ∧
    r.eng.wipe = .readback ∧ r.env.rep.pvFail = false := by decide
theorem wit_test_mode :
    let a := sec0 running (fun x => { x with lcs := some 5 })
    a.env.pins.testMode = false ∧ lcsScans a.env.sec.lcs = true ∧ lcsScans running.env.sec.lcs = false ∧
    running.eng.privetOn = false ∧ (∀ j ∈ a.eng.jobs, savingPrivet a.eng j = false) := by decide
theorem wit_network :
    let a := sec0 (pins0 (inPhase .stopped) (fun p => { p with pwrAck := Vector.replicate 12 0 })) (fun x => { x with lcs := some 3 })
    a.eng.phase = .stopped ∧ lcsScans a.env.sec.lcs = true ∧ a.env.isOff (95 / 8) (1 + 95 % 8 / 4) = false ∧
    a.env.isOff 11 3 = false ∧ a.env.isOff (95 / 8) 0 = false ∧ MemInv a ∧ running.eng.phase ≠ .stopped := by
  unfold MemInv; decide

theorem wit_turn :
    let s := regs0 running (fun r => { r with bistCfg := 0x80000000 })
    let o := regs0 s (fun r => { r with bistOppt := 0 })
    let w := eng0 (hr0 s (fun r => { r with nextTgt := 1 })) (fun e => { e with jobs := [closing] })
    wbit s.env.regs.bistCfg 31 = true ∧ inService s.env s.eng 0 = true ∧ s.env.ao.qs = false ∧
    (s.eng.hr.look 0).turn = none ∧ (s.eng.hr.look 0).testing = false ∧ opptOk s.env s.eng = true ∧
    opptOk o.env o.eng = false ∧ openOn w.eng 0 = true ∧ (targetAt 1).code = 0 ∧ (targetAt 0).code = 9 ∧
    wbit running.env.regs.bistCfg 31 = false := by decide

/-- A turn of hedgerow 0 in progress. -/
def turn (code : Nat) (st : SliceSt) : Turn := ⟨⟨code, 0, 0⟩, st, [], none, 0, false, false⟩
def sliced (u : Turn) : State := hr0 running (fun r => { r with turn := some u })
theorem wit_secure_slice :
    let j : Job := { job0 with secure := true }
    let s := hr0 (withJobs running [j] (fun p => { p with phase := .running })) (fun r => { r with turn := some (turn 0 .waiting) })
    (s.eng.hr.look 0).turn = some (turn 0 .waiting) ∧ s.eng.curJob 0 = some j ∧ j.secure = true ∧ job0.secure = false := by
  decide
theorem wit_slice_start :
    let s (c : Nat) := sliced (turn c .waiting)
    opptOk (s 0).env (s 0).eng = true ∧ ((s 0).eng.pl.look 0).phase = .idle ∧ savedOut (s 0).eng 0 = true ∧
    ((s 9).eng.hr.look 0).turn = some (turn 9 .waiting) ∧ cmpDomains (s 9).eng 0 = [] ∧ (s 10).env.isOff 0 1 = false ∧
    (s 11).env.isOff 0 3 = false ∧ bitOn ((s 10).eng.hr.look 0).lsInit.toNat 0 = false ∧
    ((s 10).eng.hr.look 0).lsRet.look 0 = .awake ∧ ((s 11).eng.hr.look 0).hbRet = .awake ∧
    inService (s 9).env (s 9).eng 0 = true := by decide
theorem wit_slice_waits :
    let b := eng0 (sliced (turn 9 .waiting)) (fun e => { e with jobs := [closing] })
    let p := withJobs (sliced (turn 0 .waiting)) [job0] (fun p => { p with phase := .running })
    let r := hr0 (sliced (turn 11 .waiting)) (fun r => { r with hbRet := .retained })
    cmpDomains b.eng 0 ≠ [] ∧ (p.eng.pl.look 0).phase ≠ .idle ∧ (r.eng.hr.look 0).hbRet = .retained := by decide
theorem wit_slice_end :
    let s := sliced (turn 9 .running)
    let u : Turn := { turn 10 .clearing with tgt := ⟨10, 7, 11⟩, reclaim := true }
    let r := sliced u
    (s.eng.hr.look 0).turn = some (turn 9 .running) ∧ PlannerOnly s 0 ∧ s.eng.stop = none ∧
    (r.eng.hr.look 0).turn = some u ∧ u.forced = false ∧ u.tgt.code < 12 ∧ u.tgt.pl < 8 ∧ u.tgt.unit < 16 ∧
    u.st = .clearing ∧ u.reclaim = true := by unfold PlannerOnly Still; decide

/-! ### Witnesses for the clauses on repair words, power and retention -/

theorem wit_block_inv : BlockInv (withJobs running [job0, { job0 with slot := 31 }] id) ∧ WindowInv State.reset := by
  refine ⟨⟨by unfold MemInv; decide, by decide, by decide, by decide, by unfold RingsSorted; decide⟩, ?_⟩
  constructor <;> constructor <;> decide

/-- KIND 3 on KPE-H2, whose hedgerows have a spare, and on KPE-H12, which has none (R340). -/
theorem wit_pleacher_word :
    let f (w : Nat) : Nat × Nat := (bits w 28 4, bits w 24 4)
    let s := hr0 small (fun r => { r with stopped := true })
    small.env.ao.fuseDone = false ∧ f 0x31E00000 = (3, 1) ∧ f 0x30E00000 = (3, 0) ∧ 1 < small.env.cfg.hedgerows ∧
    small.env.cfg.large = false ∧ State.reset.env.cfg.large = true ∧ s.eng.phase = .reset ∧
    hrIsStopped s.eng 0 = true ∧ f 0xF0000000 = (15, 0) := by decide
theorem wit_soft_pleacher_word :
    let s := { hr0 running (fun r => { r with stopped := true }) with env := small.env }
    s.eng.phase ≠ .reset ∧ s.eng.phase ≠ .failed ∧ hrIsStopped s.eng 0 = true ∧ bits 0x30E00000 28 4 = 3 ∧
    s.env.cfg.large = false := by decide

theorem wit_power_waits :
    let s := hr0 running (fun r => { r with testRun := true })
    let a := sliced { turn 10 .running with tgt := ⟨10, 7, 11⟩ }
    (s.eng.hr.look 0).testRun = true ∧ ((sliced (turn 0 .clearing)).eng.hr.look 0).turn = some (turn 0 .clearing) ∧
    (turn 0 .clearing).st ≠ .waiting ∧ (a.eng.hr.look 0).turn = some { turn 10 .running with tgt := ⟨10, 7, 11⟩ } ∧
    1 + 7 / 4 = 2 ∧ (turn 11 .running).tgt.code = 11 := by decide
theorem wit_memory_kept_awake :
    let f := withJobs running [job0] (fun p => { p with phase := .running, fetch := [512] })
    let y := withJobs running [job0] (fun p => { p with phase := .running, wait := .sync })
    let a := withJobs running [job0] (fun p => { p with phase := .running, wait := .acting })
    (f.eng.pl.look 0).fetch ≠ [] ∧ (y.eng.pl.look 0).wait = .sync ∧ (a.eng.pl.look 0).wait = .acting ∧
    (∀ p, p < 8 → (running.eng.pl.look (8 * 0 + p)).fetch = [] ∧ (running.eng.pl.look (8 * 0 + p)).wait ≠ .sync ∧
      (running.eng.pl.look (8 * 0 + p)).wait ≠ .acting) ∧
    ((sliced (turn 11 .waiting)).eng.hr.look 0).turn = some (turn 11 .waiting) ∧
    ((sliced (turn 10 .waiting)).eng.hr.look 0).turn = some (turn 10 .waiting) := by decide
theorem wit_hold_in_retention :
    let s := hr0 running (fun r => { r with hbInit := true, lsInit := 3, logicOff := true })
    (s.eng.hr.look 0).logicOff = true ∧ (s.eng.hr.look 0).hbInit = true ∧ s.eng.jobsOf 0 = [] ∧
    bitOn (s.eng.hr.look 0).lsInit.toNat 1 = true := by decide
theorem wit_readmit_cut :
    let s := hr0 running (fun r => { r with testRun := true, testCut := true })
    (s.eng.hr.look 0).testRun = true ∧ (s.eng.hr.look 0).testCut = true ∧
    (s.eng.hr.look 0).cnt.bistInc.toNat + 9 < 2 ^ 32 := by decide
/-- A status that arose in the same cycle and gives way, and one that stands (R238). -/
theorem wit_tie :
    let old : Job := { job0 with status := some .fencedUnit, arose := 0 }
    statusAfter running true old .abortedStop = .abortedStop ∧ old.arose = running.eng.cycle ∧
    statusAfter running false old .abortedStop = .fencedUnit ∧
    statusAfter running true { old with status := some .fabricError } .abortedStop = .fabricError := by decide

/-! ### Witnesses for the clauses on ticks -/

theorem wit_summary_last :
    let tk := waiting [0] [] []
    let s := hed0 running (fun h => { h with tick := some tk, cfpOut := [⟨0, .summary 0, 0, 64, false, [], false⟩] })
    Reading s 0 ⟨0, .summary 0, 0, 64, false, [], false⟩ ∧ s.eng.hed.tick = some tk ∧ tk.nextLine = 0 ∧
    tk.nLines = 1 ∧ tk.lines = [0] ∧ tk.got = [] ∧ TickReads { tk with lines := [] } ∧
    (∀ r ∈ s.eng.hed.rings, r.pend = false) := by unfold Reading TickReads; decide
/-- Ring 0 asked for by RELOAD alone, by its bit, and a ring above the lines by RELOAD. -/
theorem wit_summary_asks :
    let r : Ring := { ring0 with num := 65535, reload := true }
    let s := hed0 (reading (.summary 0) (waiting [0] [] [])) (fun h => { h with rings := [{ ring0 with reload := true }, r] })
    (s.eng.hed.ring 0).reload = true ∧ 0 < 65535 / 512 ∧ r ∈ s.eng.hed.rings ∧ r.num = 65535 ∧
    (1 : Nat).testBit 0 = true ∧ 0 < s.env.cfg.rings := by decide
/-- The last doorbell of a tick: nothing due and two descriptors to fetch, nothing to fetch, a load due with C ≠ F. -/
theorem wit_doorbell_last :
    let tk := waiting [] [0] []
    let s (r : Ring) := hed0 (reading (.doorbell 0) tk) (fun h => { h with rings := [r] })
    let left : Tick := { tk with doorbells := [] }
    let busy : Ring := { ring0 with f := 1, reload := true }
    Reading (s ring0) 0 ⟨0, .doorbell 0, 0, 64, false, [], false⟩ ∧ TickReads left ∧ RingsSorted (s ring0) ∧
    OnlyPend (s ring0) 0 ∧ ring0.loaded = true ∧ ring0.epoch = 0 ∧ ring0.reload = false ∧ ring0.ctx.enable = true ∧
    min left.burst (2#32 - ring0.f).toNat = 2 ∧ RoomFor (s ring0) 0 2 ∧
    (∀ m ∈ (s ring0).eng.hed.rings, m.pend = false) ∧ ring0.f = 0 ∧
    (s busy).eng.hed.ring 0 = busy ∧ busy.c ≠ busy.f ∧ (∀ m ∈ (s busy).eng.hed.rings, m.pend = false) := by
  unfold Reading TickReads RingsSorted OnlyPend RoomFor; decide
/-- The last table entry of a tick: ring 65535 enabled with two descriptors to fetch, and the same read failed. -/
theorem wit_table_last :
    let tk := waiting [] [] [65535]
    let r : Ring := { ring0 with num := 65535, due := true, pend := true }
    let s := hed0 (reading (.table 65535 2 255) tk) (fun h => { h with rings := [ring0, r] })
    let left : Tick := { tk with tables := [] }
    Reading s 0 ⟨0, .table 65535 2 255, 0, 64, false, [], false⟩ ∧ TickReads left ∧ RingsSorted s ∧ OnlyPend s 65535 ∧
    bits (1#128 <<< 127).toNat 127 1 = 1 ∧ min left.burst (2#32).toNat = 2 ∧ RoomFor s 65535 2 ∧
    (∀ m ∈ s.eng.hed.rings, m.pend = false ∨ m.due = true) := by
  unfold Reading TickReads RingsSorted OnlyPend RoomFor; decide
/-- A tick that fetches and waits for two descriptors of ring 0, or for room. -/
theorem wit_descriptor_waits :
    let a : QJob := default
    let b : QJob := { (default : QJob) with seq := 1 }
    let tk : Tick := { waiting [] [] [] with fetching := true, fetched := [(0, 0), (0, 1)] }
    let full : Tick := { tk with plan := [0] }
    let s := hed0 (reading (.descr 0 0) tk) (fun h => { h with queue := [a, b] })
    Reading s 0 ⟨0, .descr 0 0, 0, 64, false, [], false⟩ ∧ TickFetches tk ∧ a ∈ s.eng.hed.queue ∧ a.handed = false ∧
    (∀ j ∈ s.eng.hed.queue, j.ring = 0 → j.seq = 0 → j = a) ∧ tk.plan = [] ∧ b ∈ s.eng.hed.queue ∧
    QJob.id b ∈ tk.fetched ∧ b.arrived = false ∧ QJob.id b ≠ (0, 0) ∧ full.plan = [0] ∧ TickFetches full ∧
    ringEntries s.eng 0 < 64 := by unfold Reading TickFetches; decide
/-- The last descriptor of a tick that fetched two of ring 3 and one of ring 65535. -/
theorem wit_descriptor_last :
    let a : QJob := { entry0 with ring := 3, handed := false }
    let b : QJob := { a with seq := 1, arrived := false }
    let c : QJob := { a with ring := 65535 }
    let tk : Tick := { waiting [] [] [] with fetching := true, fetched := [(3, 0), (3, 1), (65535, 0)] }
    let s := hed0 (reading (.descr 3 1) tk) (fun h => { h with queue := [a, b, c] })
    Reading s 0 ⟨0, .descr 3 1, 0, 64, false, [], false⟩ ∧ TickFetches tk ∧ tk.plan = [] ∧
    (s.eng.hed.queue.map QJob.id).Nodup ∧ (3, 1) ∈ tk.fetched ∧
    (∀ k ∈ tk.fetched, ∃ j ∈ s.eng.hed.queue, QJob.id j = k ∧ j.ordered = false) ∧
    (∀ j ∈ s.eng.hed.queue,
      QJob.id j = (3, 1) ∨ (j.arrived = true ∧ (j.ordered = false → QJob.id j ∈ tk.fetched))) ∧
    (∀ j ∈ s.eng.hed.queue, j.win = none ∧ j.desc.phaseEn = false ∧ j.desc.ringFence = false) ∧
    s.eng.stop = none ∧ [3, 65535].Pairwise (· < ·) := by unfold Reading TickFetches; decide
theorem wit_descriptor_last_unbound :
    ∃ slot : BitVec 2048, bitOn slot.toNat 4 = false ∧ bitOn slot.toNat 10 = false :=
  ⟨BitVec.zero 2048, by rw [BitVec.zero_eq, BitVec.toNat_zero]; decide⟩
theorem wit_descriptor_last_rings (m : Nat) :
    m ∈ [3, 65535] ↔ ∃ k ∈ [(3, 0#32), (3, 1#32), (65535, 0#32)], k.1 = m := by simp; omega

/-! ### Witnesses for the clauses on admission, selection, built-in jobs, staging and saved jobs -/

/-- Boxes with one byte in common, and boxes that only touch (R49). -/
theorem wit_claims :
    let w : Claim := ⟨.bank 0, 0, 64, true⟩
    let a : Claim := ⟨.bank 0, 63, 128, false⟩
    let b : Claim := ⟨.bank 0, 64, 128, false⟩
    w.lo < w.hi ∧ a.lo < a.hi ∧ w.meets a = true ∧ w.meets b = false ∧ mustWait [a] [w] = true ∧
    mustWait [a] [b] = false ∧ mustWait [w] [{ w with inst := .bank 1 }] = false := by decide

/-- A SINT8 tensor of `n` elements at `base` of a memory. -/
def vec (space base n : Nat) : TDesc :=
  { (default : TDesc) with
    base := base, format := 0x0D, space := space, rank := 1, extent := [n, 0, 0, 0, 0, 0, 0, 0]
    stride := [1, 0, 0, 0, 0, 0, 0, 0] }
/-- Operation `op` from `src` to `dst`, its index `UINT16` in vector form at 0x100 of the bank. -/
def builtin (op : Nat) (src dst : TDesc) : Desc :=
  { (default : Desc) with
    op := op, src := src, dst := dst, axes := [0, 1, 2, 3, 4, 5, 6, 7]
    sel := if op = 0 then 0 else 0x2100000000000100#64 }
theorem wit_claims_of :
    (claimsOf (builtin 1 (vec 1 0 4) (vec 2 0 4)) 9).contains ⟨.bank 1, 0, 4, false⟩ = true ∧
    (claimsOf (builtin 1 (vec 1 0 4) (vec 2 0 4)) 9).contains ⟨.bank 1, 0x100, 0x108, false⟩ = true ∧
    (claimsOf (builtin 1 (vec 1 0 4) (vec 2 0 4)) 9).contains ⟨.leaf 9, 0, 4, true⟩ = true := by decide

/-- A phase-bound head with its window open, while an unbound job runs on the pleacher chosen. -/
theorem wit_preempt :
    let q : QJob := { entry0 with desc := { entry0.desc with phaseEn := true }, win := some ⟨0, true, false⟩ }
    let s := regs0 (withJobs (ordering running q) [job0] (fun p => { p with phase := .running }))
      (fun r => { r with sliceCfg := 0x00101000 })
    s.eng.hed.order = [(0, 0)] ∧ s.eng.hed.queue.find? (fun q => q.ring == 0 && q.seq == 0) = some q ∧ q.bad = none ∧
    pinServed s.env s.eng q.desc = true ∧ choosePleacher s.env s.eng q = some 0 ∧ slotFor s.eng 0 = some 1 ∧
    wbit s.env.regs.sliceCfg 20 = true ∧ (∀ o ∈ s.eng.jobs, mustWait (claimsOf q.desc 0) o.claims = false) ∧
    (s.eng.pl.look 0).phase = .running ∧ (s.eng.pl.look 0).wait ≠ .yielding ∧ (s.eng.pl.look 0).flights = [] ∧
    s.eng.curJob 0 = some job0 ∧ dataOut s.eng job0 = false ∧ job0.status = none ∧ job0.bound = false ∧ job0.secure = false ∧ job0.xq = [] ∧
    (s.eng.jobs.map Job.key).Nodup := by decide
theorem wit_eligible :
    let j : Job := { readyJob 0 0 with staged := true }
    let k : Job := { readyJob 1 0 with staged := true, begun := true, st := .ended, status := some .fabricError }
    let s := withJobs running [j, k] id
    j ∈ eligible s.eng 0 ∧ j.staged = true ∧ j.begun = false ∧ k ∈ s.eng.jobs ∧ k.g / 8 = 0 ∧ k.key ≠ j.key ∧
    k.staged = true ∧ k.begun = true := by decide

/-- A built-in job with its memories in the block, about to start. -/
def startable (d : Desc) : Job := { readyJob 0 0 with desc := d, bphase := .start }
theorem wit_builtin_start :
    let j := startable (builtin 1 (vec 1 0 4) (vec 2 0 4))
    let c := startable (builtin 0 (vec 1 0 4) (vec 1 64 4))
    let s := withJobs running [j] (fun p => { p with phase := .selected })
    (s.eng.pl.look 0).phase = .selected ∧ s.eng.curJob 0 = some j ∧ savedOut s.eng 0 = true ∧ j.st = .ready ∧
    j.status = none ∧ Quiet s 0 ∧ MemInv s ∧ j.desc.prog = false ∧ j.staged = false ∧ j.boxes = [] ∧ j.bphase = .start ∧
    j.undef = false ∧ readsOut s.eng j = false ∧ writesOut s.eng j.key = false ∧ c.desc.opc = 0 ∧ c.units = none ∧
    selClass c.desc.sel ≠ 7 ∧ selClass c.desc.sel ≠ 8 ∧ j.desc.opc ≠ 0 ∧ instOf 0 j.desc.src.space = .bank 0 ∧
    instOf 0 j.desc.dst.space = .leaf 0 ∧ instOf 0 j.desc.idxSpace = .bank 0 := by unfold Quiet MemInv; decide
theorem wit_memories_serve :
    let s := withJobs running [startable (builtin 1 (vec 1 0 4) (vec 2 0 4))] (fun p => { p with phase := .selected })
    let a := sec0 running (fun x => { x with lcs := some 6 })
    MemServes s false (.bank 0) ∧ MemServes s false (.leaf 95) ∧
    MemServes { a with eng := { a.eng with privetOn := true } } true .privet := by
  simp only [MemServes, BankServes]; decide
/-- What supplies a position: nothing in the source, a padding position, an index of none, an index, a reorder. -/
theorem wit_supply :
    let e := builtin 1 (vec 1 0 0) (vec 2 0 4)
    let p : Desc := { builtin 0 (vec 1 0 4) (vec 2 0 8) with pad := [2, 0, 0, 0, 0, 0, 0, 0] }
    let g := builtin 1 (vec 1 0 4) (vec 2 0 8)
    let n (d : Desc) (c : Nat) : Int := (c : Int) - d.padOf 0
    e.src.empty = true ∧ p.src.empty = false ∧ p.opc = 0 ∧ 0 < p.dst.r ∧ n p 1 < 0 ∧
    (p.src.ext (nth p.axes 0 0) : Int) ≤ n p 6 ∧ 0 ≤ n p 5 ∧ n p 5 < 4 ∧ selClass p.sel = 0 ∧ g.opc = 1 ∧
    g.idxDim = 0 ∧ g.src.empty = false := by decide
/-- A scatter of four elements to four positions with an index each way out of range and two alike. -/
theorem wit_scatter :
    let d := builtin 2 (vec 1 0 4) (vec 2 0 4)
    let idx (c : List Nat) : Option Int := [some 1, some 1, some 4, some (-1)].getD (nth c 0 0) none
    d.opc = 2 ∧ d.src.empty = false ∧ d.idxDim = 0 ∧ d.target (d.src.coord 0) 1 = some [1, 0, 0, 0, 0, 0, 0, 0] ∧
    d.target (d.src.coord 1) 1 = some [1, 0, 0, 0, 0, 0, 0, 0] ∧ d.target (d.src.coord 2) 4 = none ∧
    d.target (d.src.coord 3) (-1) = none ∧ d.scatterOob idx = true ∧
    ⟨[3, 0, 0, 0, 0, 0, 0, 0], .dstFill⟩ ∈ d.items none idx := by decide

/-- A staging copy with a unit of the host that lies on two lines, with bank units alone, and with a privet box. -/
def box (i : Inst) (lo hi : Int) (off : Nat) (pv : Bool) : StagedBox := ⟨i, lo, hi, off, 0, 1, pv⟩
theorem wit_staging_copy :
    let h : Job := { job0 with staged := true, stage := .owed, boxes := [box .host 0 65 0 false, box (.bank 0) 0 64 128 false] }
    let b : Job := { h with boxes := [box (.bank 0) 0 64 0 false, box (.bank 0) 0 64 64 false] }
    let s := withJobs running [h] (fun p => { p with phase := .running })
    let t := withJobs running [b] (fun p => { p with phase := .running })
    s.eng.curJob 0 = some h ∧ h.stage = .owed ∧ h.status = none ∧ h.desc.prog = true ∧ Quiet s 0 ∧
    (s.eng.touchAll s.env h.key (h.boxes.map boxAccess)).2 = .ok ∧ readsOut s.eng h = false ∧ h.undef = false ∧ MemInv s ∧
    (∀ x ∈ h.boxes, x.off % 64 = 0 ∧ x.privet = (x.inst == .privet)) ∧
    (∃ x ∈ copyList (h.boxes.map (sampleBox s.env 0)), x.1.1.inst = .host) ∧
    (∀ x ∈ copyList (b.boxes.map (sampleBox t.env 0)), x.1.1.inst ≠ .host) ∧
    (t.eng.touchAll t.env b.key (b.boxes.map boxAccess)).2 = .ok ∧
    (copyList (b.boxes.map (sampleBox t.env 0))).length = 2 := by unfold Quiet MemInv; decide
theorem wit_staging_privet :
    let b : Job := { job0 with secure := true, staged := true, stage := .owed, boxes := [box .privet 0 64 0 true] }
    let r := withJobs (sec0 running (fun x => { x with lcs := some 6 })) [b] (fun p => { p with phase := .running })
    let s := { r with eng := { r.eng with privetOn := true } }
    (s.eng.touchAll s.env b.key (b.boxes.map boxAccess)).2 = .ok ∧
    (∀ x ∈ b.boxes, x.off % 64 = 0 ∧ x.privet = (x.inst == .privet)) ∧
    (∀ x ∈ copyList (b.boxes.map (sampleBox s.env 0)), x.1.1.privet = true ∧ x.1.1.inst ≠ .host) := by decide
theorem wit_no_tensor : ∀ a, dtFind running.env a = none := by
  intro a
  have h : ∀ t ∈ upTo 32, bitOn (running.env.regs.dt.look t).shape.toNat 31 = false := by decide
  have n : (upTo 32).find? (dtHas running.env a) = none :=
    List.find?_eq_none.mpr (fun t ht => by simp [dtHas, h t ht])
  simp [dtFind, n]
theorem wit_staging_written :
    let j : Job := { job0 with staged := true, stage := .writing }
    let s := withJobs running [j] (fun p => { p with phase := .running })
    s.eng.curJob 0 = some j ∧ j.stage = .writing ∧ copyWritesOut s.eng j = false ∧ Quiet s 0 := by unfold Quiet; decide
theorem wit_saved_rows :
    let c : Ctx := { Ctx.reset with hdr := Ctx.reset.hdr.put 7 ⟨16, true, 0⟩ }
    Mem.wf [] ∧ (∀ t, t < 8 → (c.hdr.look t).foot ≤ 16) ∧ (recordRows c)[15]? = some (7, 15) ∧
    (recordRows c)[16]? = none ∧ (0, 0) ∉ recordRows c := by decide
theorem wit_saved_privet :
    let j : Job := { job0 with st := .suspended, saveAt := .privet 3 }
    wbit running.env.regs.sliceCfg 20 = true ∧ j.windowOpen = false ∧ j.saveAt = .privet 3 := by decide

/-! ### Witnesses for the clauses on elements, conversions and instructions -/

/-- Bits of one element that lie apart: an INT3 element in planes and a wide element in folded memory. -/
theorem wit_apart :
    let d : Desc := { (default : Desc) with dst := planes3 }
    let w : Desc := { (default : Desc) with dst := swizzled }
    d.dst.fmt.isMx = false ∧ w.dst.fmt.isMx = false ∧ (planes3.pieces [77, 9]).Pairwise Apart ∧
    (swizzled.pieces [22, 13, 0, 0]).Pairwise Apart ∧
    (∀ p ∈ planes3.pieces [77, 9], ∀ q ∈ planes3.pieces [78, 9], Apart p q) ∧
    (∀ p ∈ planes3.pieces [77, 9], p.addr = 0x000100000249 → 4 < p.sh ∨ p.sh + p.n ≤ 4) := by unfold Apart; decide
/-- A finite value of every format at its largest; integers at and beyond both ends; a tie; RAW8 to INT4. -/
theorem wit_conversions :
    0x7F7FFFFF < 2 ^ Flt.fp32.width ∧ (∃ m e, Flt.fp32.decode 0x7F7FFFFF = .num false m e) ∧
    (∃ m e, Flt.e2m1.decode 0xF = .num true m e) ∧ (∃ m e, Flt.e4m3.decode 0x80 = .num true m e) ∧
    (0 : Int) < 2 ^ 2 ∧ ¬((2 : Int) ^ 31 < 2 ^ 31) ∧ (-(2 ^ 31) ≤ (-(2 : Int) ^ 31)) ∧
    (3 : Int) < 5 ∧ (2 * (1 * 2 ^ 2) = 2 * 6 + 2 ^ 2 ∨ 2 * 6 = 2 * (1 * 2 ^ 2) + 2 ^ 2) ∧
    (fmtOf 0x0D).isMx = false ∧ (fmtOf 0x31 : Fmt) = .raw8 ∧ (fmtOf 0x0A : Fmt) ≠ .raw8 := by
  refine ⟨by decide, ⟨_, _, rfl⟩, ⟨_, _, rfl⟩, ⟨_, _, rfl⟩, ?_⟩
  decide
/-- Positions a scatter along columns and along rows reaches, the last of several standing, and ones it does not. -/
theorem wit_tscat_elements :
    let i := insn 0x06 0 u44 s44 s44
    let k := insn 0x06 1 0x00810600 s44 s44
    let z : Nat → Byte := fun _ => 0
    shapeFault i = false ∧ shapeFault k = false ∧ (shapeOf (w2Of i)).cols = 4 ∧ (shapeOf (w1Of i)).rows = 4 ∧
    indexAt (shapeOf (w1Of i)) z 3 3 = 0 ∧ (∀ x, x < 4 → indexAt (shapeOf (w1Of i)) z 3 x ≠ 1) ∧
    (shapeOf (w2Of k)).rows = 4 ∧ indexAt (shapeOf (w1Of k)) z 0 3 = 0 := by decide
theorem wit_tswz_moved :
    let i := insn 0x08 0 0 s44 s44
    let z : Nat → Byte := fun _ => 0
    opOf i = 0x08 ∧ shapeFault i = false ∧ (∀ o p l : Nat, insnSwz i o l = p → z p = z o) := by
  refine ⟨by decide, by decide, fun _ _ _ _ => rfl⟩
theorem wit_tperm_rows :
    let i := insn 0x03 0 0 s44 s44
    opOf i = 0x03 ∧ shapeFault i = false ∧ (∀ (k : Nat) (x : List Byte), x.length = 512 → ((fun _ y => y) k x).length = 512) :=
  ⟨by decide, by decide, fun _ _ h => h⟩
/-- MXFP4 in memory: a TLD of 4 x 33 elements whose last block has one, and a transposing TST to 33 x 4. -/
def mx433 : Nat := 4 * 2 ^ 23 + 33 * 2 ^ 14 + 0x2C00
theorem wit_moves_mx :
    let l := insn 0x01 1 0 mx433 (4 * 2 ^ 23 + 33 * 2 ^ 14 + 0x0D00)
    let t := insn 0x02 9 0 (33 * 2 ^ 23 + 4 * 2 ^ 14 + 0x0D00) mx433
    opOf l = 0x01 ∧ shapeFault l = false ∧ (shapeOf (w2Of l)).fmt.isMx = true ∧ (shapeOf (w2Of l)).cols = 33 ∧
    opOf t = 0x02 ∧ subOf t 3 1 = 1 ∧ shapeFault t = false ∧ (shapeOf (w3Of t)).fmt.isMx = true ∧
    (shapeOf (w3Of t)).rows = 4 ∧ (shapeOf (w3Of t)).cols = 33 ∧
    (let a := shapeOf (w2Of l); elemBytes a 3 32 ≠ [] ∧ ∀ o ∈ elemBytes a 3 32, o < 512 * a.foot) := by decide

/-- A MAP selector whose map lies in the leaf store, at its last row. -/
def leafSel : W64 := 0x7A57F80000000009#64
theorem wit_tperm_leaf :
    let i := insn 0x03 0 0 s44 s44
    let m := withSel leafSel (issuing0 i)
    MayIssue m 0 job0 i ∧ selMapped leafSel = true ∧ (bindingFor (m.eng.pl.look 0).ctx leafSel).isSome = true ∧
    (bindingOf leafSel).space = 1 ∧ cacheFind (cacheSets m.env.cfg) [] (selId leafSel) = none ∧
    (m.eng.pl.look 0).build = none ∧ Quiet m 0 ∧
    storePending m.eng job0 2 (mapStart (bindingOf leafSel)) (2 * 2 ^ unitBits (bindingOf leafSel).grain) = false ∧
    mapStart (bindingOf leafSel) = leafEnd - 512 ∧ selClass leafSel = 7 := by
  unfold MayIssue Quiet; decide
/-- A route cached under class 8 that the binding list names. -/
theorem wit_tperm_bound :
    let c : Ctx := { Ctx.reset with binds := [bindingOf mapSel] }
    (bindingFor c 0x8000000000000009#64).isSome = true ∧ selClass mapSel = 7 := by decide
/-- A flight that waits for the route being built. -/
theorem wit_route_served :
    let f := flight (.perm (insn 0x03 0 0 s44 s44) mapSel 9 [])
    let s := withJobs running [job0] (fun p => { p with phase := .running, build := some ⟨9, 5, [], none⟩, flights := [f] })
    f ∈ (s.eng.pl.look 0).flights ∧ (s.eng.pl.look 0).build = some ⟨9, 5, [], none⟩ := by decide

/-- A load whose bytes have come, and one that still waits for a unit. -/
theorem wit_retire_load :
    let i := insn 0x01 0 0 s44 s44
    let f := { flight (.load i 0 (keyOf 3)) with writes := [4] }
    let s := withJobs running [job0] (fun p => { p with phase := .running, flights := [f] })
    let x : Xact := { (default : Xact) with purpose := .data (keyOf 3 + 64), live := true, len := 64 }
    let w := hr0 s (fun r => { r with xacts := [x] })
    s.eng.curJob 0 = some job0 ∧ (s.eng.pl.look 0).flights.find? (fun f => f.id == 3) = some f ∧ opOf i = 0x01 ∧
    shapeFault i = false ∧ f.shadow = decide (subOf i 3 1 = 1) ∧ f.oob = false ∧ Mem.wf (s.eng.pl.look 0).tile ∧
    keyPending s.eng job0 (keyOf 3) = false ∧ keyPending w.eng job0 (keyOf 3) = true := by decide
/-- Stores that wrap at the end of the bank, that reach past the end of the leaf store, and to host memory. -/
theorem wit_retire_stores :
    let f (sp a : Nat) := flight (.store sp a [1, 2])
    let s (sp a : Nat) := flying (.store sp a [1, 2])
    (s 2 (2 ^ 19 - 1)).eng.curJob 0 = some job0 ∧
    ((s 2 (2 ^ 19 - 1)).eng.pl.look 0).flights.find? (fun x => x.id == 3) = some (f 2 (2 ^ 19 - 1)) ∧
    [1, 2].length ≤ spaceSize 2 ∧ spaceSize 3 = 2 ^ 19 ∧ spaceSize 1 = 2 ^ 20 ∧ instOf 0 2 = .leaf 0 ∧ instOf 0 3 = .privet ∧
    (s 0 (2 ^ 52 - 1)).eng.curJob 0 = some job0 ∧ Quiet (s 0 0) 0 ∧ ((s 0 0).eng.pl.look 0).wait ≠ .ending ∧
    job0.undef = false ∧ [1, 2].length ≤ 2 ^ 52 := by unfold Quiet; decide
/-- The second access of a SYNC, and a first access whose job still writes. -/
theorem wit_sync_acts :
    let i := insn 0x14 2 1 0 1
    let w := eng0 (issuing0 i) (fun e => e.onPl 0 (fun p => { p with wait := .acting }))
    let j : Job := { job0 with xq := [⟨true, false, 0, 64, [], [], .dest⟩] }
    let b := withJobs running [j] (fun p =>
      { p with phase := .running, buf := [⟨0, (upTo 16).map (fun k => BitVec.ofNat 8 (i.toNat / 256 ^ k))⟩] })
    (w.eng.pl.look 0).wait = .acting ∧ (w.eng.pl.look 0).insn = some i ∧ w.eng.curJob 0 = some job0 ∧ opOf i = 0x14 ∧
    subOf i 1 2 = 1 ∧ MayIssue b 0 j i ∧ writesPending b.eng j = true ∧ BankServes b 0 := by
  unfold MayIssue BankServes; decide

/-! ### Witnesses for the clauses on the fabric paths -/

/-- A job on pleacher 0 with one read outstanding on port 0. -/
def oneRead (j : Job) (p : Purpose) : State :=
  hr0 (withJobs running [j] (fun p => { p with phase := .running })) (fun r => { r with xacts := [xact false p] })
/-- A built-in job with its reads out, its destination in the bank, the leaf store or host memory. -/
def sourcing (i : Nat) : Job := { job0 with desc := builtin 0 (vec 0 0 4) (vec (nth [1, 2, 0] i 0) 64 4), bphase := .source }
/-- A job with its staging copy being read. -/
def copying : Job := { job0 with stage := .copying, staged := true, boxes := [box .host 0 64 0 false] }
theorem wit_last_beat :
    ∀ x ∈ [(sourcing 0, Purpose.data 0), (sourcing 1, .data 0), (sourcing 2, .data 0), (copying, .stageRead 0)],
      StillBut (oneRead x.1 x.2) 0 x.1.key ∧ MemInv (oneRead x.1 x.2) ∧ x.1.g / 8 = 0 ∧ x.1.status = none ∧ x.1.xq = [] ∧
      writesOut (oneRead x.1 x.2).eng x.1.key = false ∧ x.1.undef = false ∧ (oneRead x.1 x.2).eng.jobAt (0, 0) = some x.1 ∧
      (∀ y ∈ ((oneRead x.1 x.2).eng.hr.look 0).xacts, y.tag ≠ 0 → y.owner = x.1.key → y.live = true → y.write = true) := by
  unfold StillBut Still MemInv; decide
theorem wit_last_beat_builtin :
    ∀ i, i < 3 → (sourcing i).desc.prog = false ∧ (sourcing i).st = .running ∧ (sourcing i).staged = false ∧
      (sourcing i).stage ≠ .copying ∧ (sourcing i).bphase = .source ∧
      ((oneRead (sourcing i) (.data 0)).eng.pl.look 0).phase = .running ∧
      ((oneRead (sourcing i) (.data 0)).eng.pl.look 0).cur = (sourcing i).slot ∧
      instOf 0 (sourcing i).desc.dst.space = nth [.bank 0, .leaf 0, .host] i .host ∧
      (sourcing i).desc.written (sourcing i).items ≠ [] := by decide
theorem wit_last_beat_copy :
    copying.desc.prog = true ∧ copying.stage = .copying ∧
    (∀ x ∈ copying.boxes, x.privet = false ∧ x.off % 64 = 0 ∧ x.base % 64 = 0) ∧ copying.copy.remote = [] ∧
    Mem.wf copying.copy.rd := by decide
theorem wit_beat_error :
    let s := onPort (xact false (.data 5))
    (3#2) ≠ 0 ∧ StillBut s 0 (0, 0) ∧ (s.eng.hr.look 0).xacts.find? (fun x => x.tag == 0) = some (xact false (.data 5)) := by
  unfold StillBut Still; decide
/-- The last write of a built-in job; a write that is refused. -/
theorem wit_last_write :
    let j : Job := { job0 with desc := builtin 0 (vec 0 0 4) (vec 0 64 4), bphase := .writes }
    let x := xact true .dest
    let s := hr0 (withJobs running [j] (fun p => { p with phase := .running })) (fun r => { r with xacts := [x] })
    s.eng.jobAt x.owner = some j ∧ j.g / 8 = 0 ∧ StillBut s 0 j.key ∧ j.status = none ∧ j.desc.prog = false ∧
    j.st = .running ∧ j.stage ≠ .copying ∧ j.staged = false ∧ j.bphase = .writes ∧ j.xq = [] ∧ j.undef = false ∧
    readsOut s.eng j = false ∧
    (∀ y ∈ (s.eng.hr.look 0).xacts, y.tag ≠ 0 → y.write = true → y.owner = j.key → y.timedOut = true) ∧
    (s.eng.pl.look 0).phase = .running ∧ (s.eng.pl.look 0).cur = j.slot ∧ j.admitSeq = x.adm := by
  unfold StillBut Still; decide

/-- Tensor 31 enabled, one block of 4 KiB at 0x10000, and one that also holds the address under a lower number. -/
def tensors : Env :=
  { running.env with
    regs := { running.env.regs with
      dt := (running.env.regs.dt.put 31 ⟨0x00010000, 0, 0x00020000, 0, 0x80000001⟩).put 30 ⟨0x00010000, 0, 0, 0, 0x80000001⟩ } }
theorem wit_tensor_found :
    dtFind tensors 0x10FFF = some (30, 0, 0xFFF) ∧ dtFind tensors 0x11000 = none ∧ dtFind tensors 0xFFFF = none ∧
    dtHas tensors 0x10000 31 = true := by decide
/-- A head of a queue in an aperture: its owner unknown, being read, this node, another node. -/
theorem wit_resolution (w : Bool) :
    let r : Req := ⟨w, true, 0x10040, 64, [], [], .data 0⟩
    let j (res : List (Nat × Nat × Nat × Nat)) (b : Bool) : Job := { job0 with xq := [r], resolved := res, ownerBusy := b }
    let e (res : List (Nat × Nat × Nat × Nat)) (b : Bool) : Eng := (withJobs running [j res b] id).eng
    dtFind tensors (0x10040 % 2 ^ 52) = some (30, 0, 0x40) ∧ (e [] false).jobAt (0, 0) = some (j [] false) ∧
    (e [] true).jobAt (0, 0) = some (j [] true) ∧ (e [(30, 0, 0, 0)] false).jobAt (0, 0) = some (j [(30, 0, 0, 0)] false) ∧
    (e [] false).iface.mayIssue job0.desc.sc = true ∧ ((e [] false).hr.look 0).xacts = [] ∧
    hfpReady tensors 0 job0.desc.sc = true ∧ 0 < readCap tensors 0 job0.desc.sc ∧ tensors.regs.nodeId.toNat % 64 = 0 ∧
    (63 ≠ tensors.regs.nodeId.toNat % 64) ∧ 64 + (0xFC0 + 0) % 4096 ≤ 4096 ∧ tensors.ao.qs = false := by
  cases w <;> decide
theorem wit_owner_entry :
    let x : Xact := { (default : Xact) with addr := 0x20000 + 120, len := 8, purpose := .owner 31 15 }
    let e := (withJobs running [{ job0 with ownerBusy := true, resolved := List.replicate 16 (0, 0, 0, 0) }] id).eng
    x.len = 8 ∧ x.addr % 8 = 0 ∧ x.beat = 0 ∧ (e.jobAt (0, 0)).isSome = true := by decide

/-! ### Witnesses for the clauses on windows, the inbound port and security -/

/-- Windows of one cycle: a job's that closes with another of its instance that closes a cycle later, a queued
job's that closes, and a queued job's that opens and closes at once. -/
theorem wit_window_cycles :
    let o : Job := { closing with slot := 31, desc := { closing.desc with closePhase := 11 } }
    let s := eng0 phased (fun e => { e with jobs := [closing, o] })
    let e1 := (s.eng.sample s.env ph10).capture s.env ⟨0, Vector.replicate 6 11⟩
    let q : QJob := { opening with desc := { opening.desc with openPhase := 5, closePhase := 10 }, win := some ⟨0, true, false⟩ }
    let t := hed0 phased (fun h => { h with rings := [ring0], queue := [q] })
    (s.eng.jobs.map Job.key).Nodup ∧ closesJob (s.eng.sample s.env ph10) closing = true ∧
    closesJob (s.eng.sample s.env ph10) o = false ∧ closesJob e1 o = true ∧
    closesQueued (t.eng.sample t.env ph10) q = true ∧
    (∀ i ∈ t.eng.hed.queue, opensNow (t.eng.sample t.env ph10) i = false) := by decide
theorem wit_window_at_once :
    let b : QJob := { opening with desc := { opening.desc with openPhase := 8, closePhase := 9 } }
    let u := hed0 phased (fun h => { h with rings := [ring0], queue := [b] })
    opensNow (u.eng.sample u.env ph10) b = true ∧ closesQueued (u.eng.sample u.env ph10) b = true := by decide
theorem wit_no_drops : NoDrops phased ∧ NoDrops running := by
  refine ⟨⟨by decide, fun d => ?_⟩, ⟨by decide, fun d => ?_⟩⟩
  · rcases Nat.lt_or_ge d 16 with h | h
    · exact (by decide : ∀ d, d < 16 → (phased.eng.dom.look d).mark = none) d h
    · simp [Tab.look, Nat.not_lt.mpr h]; rfl
  · rcases Nat.lt_or_ge d 16 with h | h
    · exact (by decide : ∀ d, d < 16 → (running.eng.dom.look d).mark = none) d h
    · simp [Tab.look, Nat.not_lt.mpr h]; rfl
theorem wit_no_windows :
    let s := ao0 running (fun a => { a with qs := true })
    s.env.phaseOn = false ∧ s.eng.wipe ≠ .waiting ∧ (∀ j ∈ s.eng.jobs, closesJob (s.eng.sample s.env ph10) j = false) := by
  decide

/-- The port in quickset mode, a transaction that crosses 4 KiB, and one whose length says less than it brings. -/
theorem wit_inbound_port :
    let q := ao0 running (fun a => { a with qs := true })
    let s := regs0 (eng0 running (fun e => { e with iwp := { e.iwp with opened := 1 } }))
      (fun r => { r with win := r.win.upd 0 (fun x => { x with size := 2 }) })
    let d : List (Option Byte) := List.replicate 65 (some 1)
    q.env.cfg.iwp = true ∧ q.eng.phase ≠ .reset ∧ q.eng.phase ≠ .failed ∧ q.env.ao.qs = true ∧
    s.eng.iwp.txs.length < 64 ∧ s.eng.iwp.resps = [] ∧ wbit s.eng.iwp.opened (0#6).toNat = true ∧
    (s.env.regs.win.look 0).size.toNat % 2 ^ 20 = 2 ∧ insideWin s.env 0 4032 d = true ∧
    4096 < 4032 % 4096 + d.length ∧ (d.take (64 * ((0#5).toNat + 1))).length = 64 := by decide
theorem wit_handshake_failed :
    let s := inPhase .failed
    s.eng.phase = .failed ∧ s.eng.phase ≠ .reset ∧ (∀ h, PlannerOnly running h) := by
  refine ⟨by decide, by decide, fun h j hj => ?_⟩
  have : running.eng.jobs = [] := by decide
  rw [this] at hj
  cases hj
/-- Two events of one cycle, and events while fc is stopped. -/
theorem wit_single_wipe :
    let p := eng0 (sec0 running (fun x => { x with lcs := some 6 })) (fun e => { e with privetOn := true })
    let z := eng0 p (fun e => { e with wipe := .zeroing })
    let w := eng0 p (fun e => { e with wipe := .waiting })
    z.eng.wipe ≠ .none ∧ w.eng.wipe = .waiting ∧ z.env.sec.lcs = some 6 ∧ (9#4) ≠ 6 ∧ z.env.sec.tamper = false := by decide
theorem wit_test_mode_on :
    let a := sec0 running (fun x => { x with lcs := some 5 })
    let p := { a with eng := { a.eng with privetOn := true } }
    lcsScans p.env.sec.lcs = true ∧ p.eng.privetOn = true ∧
    (pins0 a (fun x => { x with testMode := true })).env.pins.testMode = true := by decide
/-- A memory that is being cleared, one that sleeps, a unit the configuration lacks, and the wrapper under zeroize. -/
theorem wit_network_waits :
    let a := sec0 (pins0 (inPhase .stopped) (fun p => { p with pwrAck := Vector.replicate 12 0 })) (fun x => { x with lcs := some 3 })
    let c := hr0 a (fun r => { r with hbInit := true, lsInit := 3 })
    let z := hr0 a (fun r => { r with hbRet := .retained, lsRet := r.lsRet.put 0 .retained })
    c.env.isOff 0 3 = false ∧ (c.eng.hr.look 0).hbInit = true ∧ bitOn (c.eng.hr.look 0).lsInit.toNat 0 = true ∧
    (z.eng.hr.look 0).hbRet = .retained ∧ (z.eng.hr.look 0).lsRet.look 0 = .retained ∧ (z.eng.hr.look 0).logicOff = false ∧
    (z.eng.hr.look 0).turn = none ∧ 8 * small.env.cfg.hedgerows ≤ 95 ∧ small.env.cfg.hedgerows ≤ 11 ∧
    a.eng.zeroize = false ∧ State.reset.env.wrap.ins = .bypass := by decide
theorem wit_zeroize : (eng0 running (fun e => { e with zeroize := true })).eng.zeroize = true := by decide

/-! ### Witnesses for the clauses on slices -/

/-- A comparator's turn at its 64th wrap, and forced with the hedgerow empty; a memory that is no longer lendable. -/
theorem wit_slice_forced :
    let w : Turn := { turn 9 .waiting with wraps := 64 }
    let f : Turn := { turn 9 .waiting with forced := true }
    64 ≤ w.wraps ∧ (turn 9 .waiting).wraps < 64 ∧ (turn 9 .waiting).forced = false ∧
    inService (sliced w).env (sliced w).eng 0 = true ∧ f.forced = true ∧
    (∀ j ∈ (sliced f).eng.jobs, j.g / 8 = 0 → j.st = .ended) ∧ ((sliced f).eng.hr.look 0).draining = false ∧
    hasTurn running.env 0 (turn 10 .waiting).tgt = false ∧ opptOk running.env running.eng = true := by decide
theorem wit_slice_lendable :
    let s (r : Ret) := regs0 (hr0 (sliced (turn 11 .waiting)) (fun x => { x with hbRet := r, lsRet := x.lsRet.put 0 r }))
      (fun r => { r with lend := r.lend.put 0 1, hr := r.hr.upd 0 (fun x => { x with lendHb := 1 }) })
    hasTurn (s .awake).env 0 ⟨11, 0, 0⟩ = true ∧ hasTurn (s .awake).env 0 ⟨10, 0, 0⟩ = true ∧
    (s .awake).env.isOff 0 3 = false ∧ ((s .awake).eng.hr.look 0).hbInit = false ∧
    ((s .retained).eng.hr.look 0).hbRet = .retained ∧ ((s .retained).eng.hr.look 0).lsRet.look 0 = .retained := by decide
/-- A domain wrap of the domain that holds the comparator. -/
theorem wit_slice_holder :
    let u : Turn := { turn 9 .waiting with holder := some 0 }
    let s := eng0 (regs0 (sliced u) (fun r =>
        { r with pd := Vector.ofFn (fun (i : Fin 16) => { r.pd.look i.val with cfg := if i.val = 0 then 0x80010000 else 0x81010000 }) }))
      (fun e => e.onDom 0 (fun m => { m with st := .running }))
    u.holder = some 0 ∧ (s.eng.dom.look 0).st = .running ∧ domDiv s.env 0 ≤ (s.eng.dom.look 0).k + 1 ∧
    (∀ c, c < 16 → c ≠ 0 → domSrc s.env c ≠ domSrc s.env 0) := by decide
/-- A leaf-store row and a bank row with a spare left, and with none. -/
theorem wit_repair_rows :
    let x (r : LeafRep) : State := { running with env := { running.env with rep := { running.env.rep with leaf := running.env.rep.leaf.put 95 r } } }
    let some8 : LeafRep := { running.env.rep.leaf.look 95 with map := (upTo 7).map (fun k => (k, k)) }
    let all8 : LeafRep := { running.env.rep.leaf.look 95 with bad := upTo 8 }
    (∀ p ∈ ((x some8).env.rep.leaf.look 95).map, p.2 ≠ 767) ∧ 7 ∉ ((x some8).env.rep.leaf.look 95).bad ∧
    (∀ p ∈ ((x some8).env.rep.leaf.look 95).map, p.1 ≠ 7) ∧
    (∀ y, y < 7 → ∃ p ∈ ((x some8).env.rep.leaf.look 95).map, p.1 = y) ∧
    (∀ y, y < 8 → y ∈ ((x all8).env.rep.leaf.look 95).bad) ∧ (31, 127) ∉ (running.env.rep.hr.look 11).map ∧
    ¬(31 ∈ (running.env.rep.hr.look 11).bad ∨ ∃ p ∈ (running.env.rep.hr.look 11).map, p.1 = 31) := by decide
theorem wit_slice_results :
    let s := sliced { turn 7 .running with tgt := ⟨7, 0, 0⟩ }
    let m := { s with env := { s.env with rep := { s.env.rep with hr := s.env.rep.hr.upd 0 (fun r => { r with spare := 1 }) } } }
    (turn 7 .running).tgt.code < 8 ∧ (s.env.rep.hr.look 0).spare ≠ 1 ∧ (m.env.rep.hr.look 0).spare = 1 ∧
    PlannerOnly s 0 := by unfold PlannerOnly Still; decide

/-! ### Witnesses for what the tests of a start find, and for stops -/

/-- KPE-H2 in a phase of its start, its spare pleachers unused. -/
def sparing (p : Phase) : State :=
  let s := { small with eng := { Eng.reset with phase := p } }
  { s with env := { s.env with rep := { s.env.rep with hr := s.env.rep.hr.upd 0 (fun r => { r with spare := 1 }) } } }
/-- A pleacher that the spare takes, two of which one stays, a spare that fails itself, and a mover and comparators. -/
theorem wit_start_found :
    let s := sparing .logic
    let one : Found := ⟨[3], [], [], []⟩
    let two : Found := ⟨[3, 5, 96], [], [], [0]⟩
    let lost : Found := ⟨[3], [0], [], []⟩
    let rest : Found := ⟨[], [], [1], [0, 1]⟩
    failing s.env one.pleachers 0 = [3] ∧ one.spareTakes s 0 ∧ ¬one.fences s 0 ∧
    failing s.env two.pleachers 0 = [3, 5] ∧ two.spareTakes s 0 ∧ two.fences s 0 ∧ two.logicLost s 0 ∧
    lost.spareLost s 0 ∧ ¬lost.spareTakes s 0 ∧ lost.fences s 0 ∧ rest.fences s 1 ∧ rest.logicLost s 1 ∧
    rest.fences s 0 ∧ ¬rest.logicLost s 0 := by
  refine ⟨?_, ?_, ?_, ?_, ?_, ?_, ?_, ?_, ?_, ?_, ?_, ?_, ?_, ?_⟩ <;>
    (try simp only [Found.fences, Found.logicLost, Found.spareTakes, Found.spareLost]) <;> decide
/-- Movers or comparators of every hedgerow, so that no hedgerow is left, and of every one but the last. -/
theorem wit_start_no_hedgerow :
    let s := inPhase .logic
    let m : LogicFails := ⟨false, [], [], upTo 12, []⟩
    let c : Found := ⟨[], [], [], upTo 11⟩
    s.eng.phase = .logic ∧ m.block = false ∧
    (∀ h, h < 12 → testsHr s.env h = true ∧ h ∈ m.movers ∧ hrIsFenced s.eng h = false) ∧
    (∀ h, h < 11 → c.fences s h) ∧ ¬c.fences s 11 := by
  refine ⟨?_, ?_, ?_, ?_, ?_⟩ <;>
    (try simp only [Found.fences, Found.logicLost, Found.spareTakes, Found.spareLost]) <;> decide
/-- Rows with a spare free, an unused spare row, a mapped one, the first and the last; privet lines held and not. -/
theorem wit_start_rows :
    let s := inPhase .memory
    let x (r : LeafRep) : State :=
      { s with env := { s.env with rep := { s.env.rep with leaf := s.env.rep.leaf.put 95 r } } }
    let mapped := x { s.env.rep.leaf.look 95 with map := [(7, 767)] }
    let p := { s with eng := { s.eng with privetOn := true } }
    s.eng.phase = .memory ∧ testsPl s.env 95 = true ∧ testsHr s.env 11 = true ∧ 775 - 768 = 7 ∧
    (∀ q ∈ (s.env.rep.leaf.look 95).map, q.1 ≠ 7) ∧
    (mapped.env.rep.leaf.look 95).map.find? (fun q => q.1 == 775 - 768) = some (775 - 768, 767) ∧
    s.env.rep.pvFail = false ∧ p.eng.privetOn = true ∧ 0 ∈ [4095, 0] ∧ (∀ k ∈ [4095, 0], 0 ≤ k) ∧
    s.eng.privetOn = false := by decide

/-- Heads that a draining stop ends: a fence, a window that has not opened, and a window that its domain opens later. -/
theorem wit_draining_heads :
    let s (q : QJob) := hed0 phased (fun h => { h with rings := [ring0], queue := [q] })
    let f := fencedHead 1
    let b : QJob := { entry0 with desc := { entry0.desc with phaseEn := true, openPhase := 10, closePhase := 20 } }
    (∀ q ∈ [f, opening, b], (s q).eng.hed.head 0 = some q ∧ (∃ r ∈ (s q).eng.hed.rings, r.num = 0) ∧ q.handed = true ∧
      q.bad = none ∧ (s q).eng.phase = .running ∧ (s q).eng.stop ≠ some false) ∧
    f.win = none ∧ bindsNow (s f).env (s f).eng f.desc = false ∧ fenced (s f).eng f = true ∧
    opening.win = some ⟨0, false, false⟩ ∧ b.win = none ∧ bindsNow (s b).env (s b).eng b.desc = true ∧
    ((s b).eng.dom.look b.desc.domain).mark ≠ some (fixWindow ((s b).eng.dom.look b.desc.domain) b.desc).inst ∧
    (fixWindow ((s b).eng.dom.look b.desc.domain) b.desc).opened = false := by decide
/-- A queued job whose descriptor read failed, as an abortive stop meets it. -/
theorem wit_abortive_bad :
    let q : QJob := { entry0 with bad := some .fabricTimeout }
    let s := hed0 running (fun h => { h with rings := [ring0], queue := [q] })
    q ∈ s.eng.hed.queue ∧ q.handed = true ∧ q.bad.getD .abortedStop = .fabricTimeout ∧
    entry0.bad.getD .abortedStop = .abortedStop := by decide
/-- A byte at the last place of a bank in a box that wraps, and one outside it. -/
theorem wit_in_box :
    let c : Claim := ⟨.bank 0, 2 ^ 20 - 1, 2 ^ 20 + 1, true⟩
    InBox c (.bank 0) (2 ^ 20 - 1) ∧ InBox c (.bank 0) 0 ∧ ¬InBox c (.bank 0) 1 ∧ ¬InBox c (.bank 1) 0 := by
  refine ⟨⟨rfl, 2 ^ 20 - 1, by decide, by decide, by decide⟩, ⟨rfl, 2 ^ 20, by decide, by decide, by decide⟩, ?_, ?_⟩
  · rintro ⟨-, x, h1, h2, h3⟩
    simp only at h1 h2 h3
    omega
  · rintro ⟨h, -⟩
    cases h
/-- A fenced hedgerow with the turn that forced its fence, with another that waits, and with one that runs. -/
theorem wit_stop_of_fenced :
    let f (u : Turn) := hr0 (sliced u) (fun r => { r with fenceCause := 3, mgmtIn := false })
    hrIsFenced (f { turn 9 .waiting with forced := true }).eng 0 = true ∧
    ((f { turn 9 .waiting with forced := true }).eng.hr.look 0).turn = some { turn 9 .waiting with forced := true } ∧
    (turn 9 .waiting).forced = false ∧ (turn 9 .running).st ≠ .waiting ∧ running.eng.phase ≠ .reset ∧
    running.eng.phase ≠ .failed := by decide
theorem wit_readmit_cut_results :
    let s := hr0 running (fun r => { r with testRun := true, testCut := true, fenceCause := 5 })
    (s.eng.hr.look 0).testRun = true ∧ (s.eng.hr.look 0).testCut = true ∧ s.eng.stop = none ∧
    (⟨true, false⟩ : SliceObs).full = true ∧ (⟨true, false⟩ : SliceObs).sig = false ∧
    (⟨false, true⟩ : SliceObs).full = false := by decide

/-! ### Witnesses for the clauses on the register window -/

/-- LOCK at 0 with a privet bank; the last hedgerow and the last pleacher. -/
theorem wit_rw_beside :
    wbit running.env.sec.cfg 31 = false ∧ running.env.cfg.privet = true ∧ 11 < running.env.cfg.hedgerows ∧
    95 < 8 * running.env.cfg.hedgerows := by decide
/-- Words that set each command bit of a register, and neither; a hedgerow in service and one that is not. -/
theorem wit_write_commands :
    State.reset.eng.phase = .reset ∧ running.eng.phase ≠ .reset ∧ wbit 7#32 1 = true ∧ wbit 7#32 2 = true ∧
    wbit 3#32 2 = false ∧ wbit 1#32 1 = false ∧ wbit 1#32 0 = true ∧ wbit 0#32 0 = false ∧ wbit 0xC0000000#32 30 = true ∧
    wbit 0xC0000000#32 31 = true ∧ inService running.env running.eng 11 = true ∧
    inService (inPhase .stopped).env (inPhase .stopped).eng 11 = false := by decide

/-! ### Witnesses for the clauses on records, selection and yields -/

/-- A record whose job mirrors its completion at a bit of page 4 of the bank, with the window over that page or not. -/
def mirroring : Job :=
  { job0 with st := .ended, desc := { job0.desc with mirrorEn := true, mirrorBit := 4 * 4096 * 8 + 5 } }
def mirrored (w : W32) (r : Ret) : State :=
  hr0 (regs0 { due with eng := { due.eng with jobs := [mirroring] } }
    (fun x => { x with hr := x.hr.upd 0 (fun y => { y with semWin := w }) })) (fun x => { x with hbRet := r })
theorem wit_mirror :
    let s := mirrored 0x00010004 .awake
    let z := mirrored 0x00010004 .retained
    s.eng.hed.ends = [⟨0, 0, some (0, 0), .droppedLate, 0, 0, 0, 0⟩] ∧ s.eng.jobAt (0, 0) = some mirroring ∧
    mirroring.key = (0, 0) ∧ mirroring.desc.mirrorEn = true ∧ (s.eng.hed.ring 0).ctx.ordered = false ∧
    inSemWin s.env 0 mirroring.desc.mirrorBit = true ∧
    inSemWin (mirrored 0x00010005 .awake).env 0 mirroring.desc.mirrorBit = false ∧
    BankServes s 0 ∧ MemInv s ∧ wbit (regs0 s (fun r => { r with sliceCfg := 0 })).env.regs.sliceCfg 20 = false ∧
    z.env.isOff 0 3 = false ∧ (z.eng.hr.look 0).hbInit = false ∧ (z.eng.hr.look 0).hbRet = .retained := by
  unfold BankServes MemInv; decide
theorem wit_record_not_admitted :
    let s := hed0 running (fun h => { h with rings := [ring0], ends := [⟨0, 0, none, .droppedPeriod, 0, 15, 0, 0⟩] })
    s.eng.hed.ends = [⟨0, 0, none, .droppedPeriod, 0, 15, 0, 0⟩] ∧ (s.eng.hed.ring 0).ctx.ordered = false := by decide
/-- The slot chosen as the last job began to yield, and a choice that has gone. -/
theorem wit_incoming :
    let s (i : Option Nat) := withJobs running [readyJob 0 5, readyJob 31 4] (fun p => { p with incoming := i })
    readyJob 0 5 ∈ eligible (s (some 0)).eng 0 ∧ ((s (some 0)).eng.pl.look 0).incoming = some (readyJob 0 5).slot ∧
    firstOf (eligible (s (some 7)).eng 0) = some (readyJob 31 4) ∧
    (∀ k ∈ eligible (s (some 7)).eng 0, ((s (some 7)).eng.pl.look 0).incoming ≠ some k.slot) ∧
    ((s none).eng.jobs.map Job.key).Nodup ∧ (s none).eng.jobs ≠ [] := by decide

/-- Pleacher 0 runs `job0` with the flights `fs`, another job READY, and one read outstanding for each key of `ks`. -/
def quitting (fs : List Flight) (ks : List Nat) (w : PlWait) : State :=
  hr0 (withJobs running [{ job0 with st := if w = .yielding then .suspended else .running }, readyJob 31 0]
      (fun p => { p with
        phase := .running, flights := fs, newest := 9, wait := w, incoming := if w = .yielding then some 31 else none }))
    (fun r => { r with xacts := ks.map (fun k => xact false (.data k)) })
/-- A register flight that another follows, one that is the newest, a load whose data are out, and the last of a
yield. -/
theorem wit_quantum_flights :
    let r := flight (.reg 7 (BitVec.ofNat 32 s44) [1, 2])
    let n : Flight := { r with id := 9 }
    let l := flight (.load (insn 0x01 0 0 s44 s44) 0 (keyOf 3))
    let s (fs : List Flight) (ks : List Nat) (w : PlWait) := quitting fs ks w
    let run (t : State) (n : Nat) := (t.eng.pl.look 0).running t.eng job0 n
    run (s [r, n] [] .none) 0 = [r] ∧ run (s [n] [] .none) 0 = [] ∧ run (s [n] [] .none) 1 = [n] ∧
    run (s [l] [keyOf 3] .none) 0 = [l] ∧ keyPending (s [l] [keyOf 3] .none).eng job0 (keyOf 3) = true ∧
    dataOut (s [r] [] .none).eng job0 = false ∧ r.id ≠ ((s [r] [] .none).eng.pl.look 0).newest ∧
    (s [] [] .none).eng.curJob 0 = some job0 ∧ Quiet (s [] [] .none) 0 ∧ ((s [] [] .none).eng.jobs.map Job.key).Nodup ∧
    firstOf (eligible (s [] [] .none).eng 0) = some (readyJob 31 0) ∧ readyJob 31 0 ∈ eligible (s [r] [] .yielding).eng 0 ∧
    (s [r] [] .yielding).eng.curJob 0 = some { job0 with st := .suspended } ∧
    dataOut (s [r] [] .yielding).eng { job0 with st := .suspended } = false ∧ ((s [r] [] .yielding).eng.pl.look 0).incoming = some 31 ∧ Mem.wf ((s [r] [] .none).eng.pl.look 0).tile := by
  unfold Quiet; decide
/-- The last beat of a load that a yielding job waits for; hedgerows without a yielding job. -/
theorem wit_yield_beat :
    let l := flight (.load (insn 0x01 0 0 s44 s44) 0 (keyOf 3))
    let s := quitting [l] [keyOf 3] .yielding
    StillBut s 0 (0, 0) ∧ (s.eng.hr.look 0).xacts.find? (fun x => x.tag == 0) = some (xact false (.data (keyOf 3))) ∧
    (∀ y ∈ (s.eng.hr.look 0).xacts, y.tag ≠ 0 → y.owner = job0.key → y.live = true → y.write = true) ∧
    s.eng.jobAt (0, 0) = some { job0 with st := .suspended } ∧ (s.eng.pl.look 0).wait = .yielding ∧
    (s.eng.pl.look 0).flights = [l] ∧ NoYields running 0 ∧
    NoYields (quitting [l] [keyOf 3] .none) 0 := by unfold StillBut Still NoYields; decide

/-! ### Witnesses for the clauses on a staged SYNC, remote writes and forced slices -/

/-- A job whose half words lie in a staged box with its copy in the hedgerow's region. -/
def syncing (st : Stage) : Job := { job0 with staged := true, stage := st, boxes := [box (.bank 0) 0 128 0 false] }
theorem wit_sync_staged :
    let i := insn 0x14 2 1 0 1
    let at0 (j : Job) (k : Nat) : Int := j.unOf (.bank 0) ((0 + k) % 2 ^ 20)
    let s (j : Job) (w : PlWait) := withJobs running [j] (fun p =>
      { p with phase := .running, wait := w, buf := [⟨0, (upTo 16).map (fun k => BitVec.ofNat 8 (i.toNat / 256 ^ k))⟩] })
    let d := syncing .done
    MayIssue (s d .none) 0 d i ∧ syncAt ((s d .none).eng.pl.look 0).ctx i = 0 ∧ d.staged = true ∧ d.stage = .done ∧
    (∀ k, k < 4 → d.stagedAt (.bank 0) (at0 d k) = some (box (.bank 0) 0 128 0 false)) ∧
    (∀ k, k < 4 → job0.stagedAt (.bank 0) (at0 job0 k) = none) ∧ Quiet (s d .none) 0 ∧ MemInv (s d .none) ∧
    BankServes (s d .none) 0 ∧ writesPending (s d .none).eng d = false ∧ ((s d .none).eng.jobs.map Job.key).Nodup ∧
    MayIssue (s (syncing .owed) .none) 0 (syncing .owed) i ∧ (syncing .owed).stage ≠ .done ∧
    ((s d (.polling (keyOf 3))).eng.pl.look 0).wait = .polling (keyOf 3) ∧
    keyPending (s d (.polling (keyOf 3))).eng d (keyOf 3) = false ∧
    keyPending (hr0 (s d (.polling (keyOf 3))) (fun r => { r with xacts := [xact false (.data (keyOf 3))] })).eng d
      (keyOf 3) = true ∧
    (∀ k, k < 4 → spotLost d (keyOf 3) (.bank 0, at0 d k, k) = false) := by
  unfold MayIssue MemInv BankServes Quiet; decide
/-- Another node's block in quickset mode; a port that is not ready for the class. -/
theorem wit_quickset_remote :
    let v := { tensors with ao := { tensors.ao with qs := true } }
    let n := { tensors with
      pins := { tensors.pins with rdy := { tensors.pins.rdy with hfp := tensors.pins.rdy.hfp.put 0 0 } } }
    v.ao.qs = true ∧ dtFind v (0x10040 % 2 ^ 52) = some (30, 0, 0x40) ∧ hfpReady v 0 0 = true ∧ 0 < readCap v 0 0 ∧
    job0.st ≠ .ended ∧ ((withJobs running [job0] id).eng.pl.look 0).wait ≠ .ending ∧ hfpReady n 0 0 = false := by decide
theorem wit_forced_slice :
    let f (st : SliceSt) : Turn := { turn 9 st with forced := true }
    let s (st : SliceSt) := hr0 (sliced (f st)) (fun r => { r with fenceCause := 3, mgmtIn := false })
    ((s .running).eng.hr.look 0).turn = some (f .running) ∧ (f .running).tgt.code = 9 ∧ (f .running).reclaim = false ∧
    (f .running).st ≠ .waiting ∧ (f .clearing).st ≠ .waiting ∧ PlannerOnly (s .clearing) 0 ∧ (s .running).eng.stop = none := by
  unfold PlannerOnly Still; decide
/-- Control memory right after a start, and a hedgerow's capture of the bypass bit. -/
theorem wit_network_start :
    let a := sec0 (ao0 (inPhase .stopped) (fun x => { x with unresolved := true })) (fun x => { x with lcs := some 3 })
    a.env.ao.unresolved = true ∧ (∀ y ∈ a.eng.ctl, y.1 ≠ 0) ∧ a.eng.zeroize = false ∧ a.env.wrap.ins = .bypass := by decide

/-! ### Witnesses for the clauses on test mode, timeouts of the control port, strays and the order -/

/-- A fence behind a window that is open, or still shut; a pleacher that holds the ring's latest job; a start with a
failing spare. -/
theorem wit_ring_fence_bound :
    let q (o : Bool) : QJob :=
      { fencedHead 0 with desc := { (fencedHead 0).desc with phaseEn := true }, win := some ⟨0, o, false⟩ }
    let s (o : Bool) := hed0 running (fun h => { h with rings := [ring0], queue := [q o] })
    (s true).eng.hed.head 0 = some (q true) ∧ (∃ w, (q true).win = some w ∧ w.opened = true) ∧
    ((s true).eng.hed.ring 0).c = (q true).seq ∧ (s false).eng.hed.head 0 = some (q false) ∧
    (q false).win = some ⟨0, false, false⟩ := by decide
theorem wit_choice_of_ring :
    let j1 : Job := { job0 with g := 95, slot := 4 }
    let j2 : Job := { job0 with g := 3, slot := 4 }
    let s := eng0 (ordering running entry0) (fun e => { e with jobs := [j1, j2] })
    s.eng.jobs = [j1] ++ j2 :: [] ∧ j2.ring = entry0.ring ∧ canTake s.env s.eng entry0 3 = true ∧
    canTake (hr0 s (fun r => { r with mgmtIn := false })).env (hr0 s (fun r => { r with mgmtIn := false })).eng entry0 3 =
      false := by decide
theorem wit_memory_test_wf :
    (Instr.memoryTestEnd ⟨[(95, 775)], [(11, 31, 128)], [4095], false, [95], [11]⟩).wf = true := by decide
/-- An operand of the bank beside a staged box, held while the copy is made, and in full within one when it is done. -/
theorem wit_load_staged :
    let i := insn 0x01 1 0 s44 s44
    let t := insn 0x02 1 0 s44 s44
    let j (st : Stage) (pv : Bool) : Job :=
      { job0 with staged := true, stage := st, boxes := [box (.bank 0) 0 1024 0 pv] }
    let s (i : Insn) (j : Job) := { issuing0 i with eng := { (issuing0 i).eng with jobs := [j] } }
    let n := operandLen 1 (shapeOf (w2Of i))
    MayIssue (s i (j .copying false)) 0 (j .copying false) i ∧ MayIssue (s t (j .copying false)) 0 (j .copying false) t ∧
    (∃ sp ∈ operandSpots (j .copying false) 0 1 0 n, ((j .copying false).stagedAt sp.1 sp.2.1).isSome = true) ∧
    MayIssue (s i (j .done false)) 0 (j .done false) i ∧ Quiet (s i (j .done false)) 0 ∧
    scoreboard (s i (j .done false)).eng ((s i (j .done false)).eng.pl.look 0) (j .done false) [] [4] false = true ∧
    storePending (s i (j .done false)).eng (j .done false) 1 0 n = false ∧
    (∀ x ∈ (j .done false).boxes, x.base % 65536 = 0 ∧ x.off % 64 = 0) ∧
    (∀ sp ∈ operandSpots (j .done false) 0 1 0 n,
      ∃ x, (j .done false).stagedAt sp.1 sp.2.1 = some x ∧ x.privet = false) ∧
    (∀ sp ∈ operandSpots (j .done true) 0 1 0 n, ((j .done true).placeOf sp).1 ≠ .host) ∧
    MayIssue (s t (j .done false)) 0 (j .done false) t := by
  have h : ∀ sp ∈ operandSpots { job0 with staged := true, stage := .done, boxes := [box (.bank 0) 0 1024 0 false] } 0 1 0
        (operandLen 1 (shapeOf (w2Of (insn 0x01 1 0 s44 s44)))),
      Job.stagedAt { job0 with staged := true, stage := .done, boxes := [box (.bank 0) 0 1024 0 false] } sp.1 sp.2.1 =
        some (box (.bank 0) 0 1024 0 false) := by decide
  unfold MayIssue Quiet
  exact ⟨by decide, by decide, by decide, by decide, by decide, by decide, by decide, by decide,
    fun sp m => ⟨_, h sp m, rfl⟩, by decide, by decide⟩
theorem wit_load_staged_privet :
    let i := insn 0x01 1 0 s44 s44
    let j : Job := { job0 with secure := true, staged := true, stage := .done, boxes := [box (.bank 0) 0 1024 0 true] }
    let r := sec0 { issuing0 i with eng := { (issuing0 i).eng with jobs := [j] } } (fun x => { x with lcs := some 6 })
    let s := { r with eng := { r.eng with privetOn := true } }
    (s.eng.touchAll s.env j.key (blockOf j (operandSpots j 0 1 0 64))).2 = .ok := by decide
/-- A TPERM that the scoreboard holds. -/
theorem wit_tperm_held :
    let i := insn 0x03 0 0 s44 s44
    let f : Flight := { flight (.reg 2 0 []) with writes := [2] }
    let s := eng0 (issuing0 i) (fun e => e.onPl 0 (fun p => { p with flights := [f] }))
    MayIssue s 0 job0 i ∧ freeRegs s [2] [4] false = false := by unfold MayIssue; decide
/-- Reads and a record of the control port, and a local write, whose timers run, and stand. -/
theorem wit_timeout_hedger (who : CfpWho) :
    let x : CfpX := ⟨130, who, 0, 32, false, [], false⟩
    let s := hed0 running (fun h => { h with cfpOut := [x], queue := [{ entry0 with seq := 4 }] })
    s.eng.hed.cfpOut.find? (fun x => x.tag == 130 && !x.timedOut) = some x ∧ tmoOf s.env 1 ≠ 0 ∧
    s.eng.iface.quiesce = false ∧ s.eng.iface.train = false ∧
    (∃ i ∈ s.eng.hed.queue, i.ring = 0 ∧ i.seq = 4) ∧ tmoOf (regs0 s (fun r => { r with fabTmo := 0 })).env 1 = 0 :=
  ⟨rfl, (by decide : tmoOf running.env 1 ≠ 0), rfl, rfl, ⟨{ entry0 with seq := 4 }, List.mem_singleton.mpr rfl, rfl, rfl⟩,
    (by decide : tmoOf (regs0 running (fun r => { r with fabTmo := 0 })).env 1 = 0)⟩
theorem wit_timeout_window :
    let x : MwX := ⟨63, 4, 0, 0, [], false⟩
    let u (n : Nat) : IwpTx := ⟨4, 1, 2, 3, n, false⟩
    let s (n : Nat) := eng0 running (fun e => { e with iwp := { e.iwp with out := [x], txs := [u n] } })
    (s 1).eng.iwp.out.find? (fun x => x.tag == 63 && !x.timedOut) = some x ∧
    (s 1).eng.iwp.txs.find? (fun t => t.num == x.num) = some (u 1) ∧ (u 1).left = 1 ∧
    (s 2).eng.iwp.txs.find? (fun t => t.num == x.num) = some (u 2) ∧ 1 < (u 2).left ∧
    tmoOf (s 1).env x.sc ≠ 0 ∧ (s 1).eng.iwp.want = [] ∧ (s 1).eng.iface.train = false := by decide
theorem wit_stray :
    running.eng.phase ≠ .reset ∧ (∀ x ∈ running.eng.hed.cfpOut, x.tag ≠ 191) ∧ running.env.cfg.iwp = true ∧
    (∀ x ∈ running.eng.iwp.out, x.tag ≠ 63) := by decide
/-- Two windows that open at once, in a ring with a job in the order and in one without. -/
theorem wit_openings :
    let r : Ring := { ring0 with num := 1 }
    let q : QJob := { opening with ring := 1, seq := 1 }
    let p : QJob := { opening with desc := { opening.desc with openPhase := 9 } }
    let w : QJob := { entry0 with ring := 1, ordered := true }
    let s := hed0 phased (fun h => { h with rings := [ring0, r], queue := [w, q, p], order := [(1, 0)] })
    let o := hed0 phased (fun h => { h with rings := [ring0, r], queue := [q, p] })
    RingsSorted s ∧ s.eng.hed.head 1 = some q ∧ s.eng.hed.order = [] ++ (1, 0) :: [] ∧
    opensNow (s.eng.sample s.env ph10) q = true ∧ (∀ k ∈ s.eng.hed.order, k.1 ≠ 0) ∧
    s.eng.hed.head 0 = some p ∧ opensNow (s.eng.sample s.env ph10) p = true ∧
    (∀ i ∈ s.eng.hed.queue, opensNow (s.eng.sample s.env ph10) i = true →
      closesQueued (s.eng.sample s.env ph10) i = false) ∧
    o.eng.hed.head 1 = some q ∧ o.eng.hed.head 0 = some p ∧ (∀ k ∈ o.eng.hed.order, k.1 ≠ 1 ∧ k.1 ≠ 0) ∧
    p.desc.domain = q.desc.domain ∧ p.desc.openPhase < q.desc.openPhase ∧ q.desc.openPhase < 2 ^ 24 := by
  unfold RingsSorted; decide
/-- A registration that makes the block heed a kz_test_mode at 1, and a rise in reset. -/
theorem wit_rise :
    let s := pins0 (sec0 running (fun x => { x with lcs := some 6 })) (fun p => { p with testMode := true })
    s.env.pins.testMode = true ∧ s.eng.phase ≠ .reset ∧ lcsScans (some 9) = true ∧ lcsScans s.env.sec.lcs = false ∧
    (∀ j ∈ s.eng.jobs, savingPrivet s.eng j = false) ∧ running.env.pins.testMode = false ∧
    State.reset.env.pins.testMode = false ∧ State.reset.eng.phase = .reset := by decide
/-- A slice told to end before its time, in no reclaim. -/
theorem wit_slice_cut :
    (turn 11 .clearing).forced = false ∧ (turn 11 .clearing).st = .clearing ∧ (turn 11 .clearing).reclaim = false ∧
    ((sliced (turn 11 .clearing)).eng.hr.look 0).turn = some (turn 11 .clearing) := by decide
/-- The place of a segment's turn and of a unit's in the round, with the last page or the first alone lendable. -/
theorem wit_lendable :
    let s (w : W32) := regs0 running (fun r =>
      { r with lend := r.lend.put 7 0x800, hr := r.hr.upd 0 (fun x => { x with lendHb := 0x8001, semWin := w }) })
    hasTurn (s 0x0010000F#32).env 0 ⟨11, 0, 0⟩ = true ∧ hasTurn (s 0x00100000#32).env 0 ⟨11, 0, 0⟩ = false ∧
    hasTurn (s 0x001000F0#32).env 0 ⟨11, 0, 15⟩ = false ∧ hasTurn (s 0x000F00F0#32).env 0 ⟨11, 0, 15⟩ = true ∧
    hasTurn (s 0#32).env 0 ⟨10, 7, 11⟩ = true ∧ hasTurn (s 0#32).env 0 ⟨10, 7, 10⟩ = false := by decide

/-! ### Witnesses for the clauses on rounding, overflow and block scales -/

/-- R70 at its edge: F + u = 65535 and 65536. The last value that rounds to the largest finite one, and the first that
overflows (E4M3: 464 and 465 under RNE). -/
theorem wit_rounding :
    roundMag ⟨.sr, false, 32767⟩ 3 (-1) 0 = 1 ∧ roundMag ⟨.sr, false, 32768⟩ 3 (-1) 0 = 2 ∧
    (fltRow .e4m3).top = 448 * 2 ^ 9 ∧ roundMag ⟨.rne, true, 0⟩ 464 0 5 * 2 ^ 14 = 448 * 2 ^ 9 ∧
    roundMag ⟨.rne, true, 0⟩ 465 0 5 * 2 ^ 14 = 480 * 2 ^ 9 ∧
    Flt.e4m3.encode ⟨.rne, true, 0⟩ (.num true 465 0) = 0xFF ∧ Flt.e4m3.encode ⟨.rtz, true, 0⟩ (.num true 465 0) = 0xFE := by
  decide
/-- The corners of MXINT8 and E8M0, and the blocks of R79 and R80: none finite, a NaN, and a greatest magnitude. -/
theorem wit_blocks :
    Fmt.mxint8.encode ⟨.rne, true, 0⟩ (.num true 2 0) = 0x81 ∧ Fmt.mxint8.encode ⟨.rne, false, 0⟩ (.num false 127 (-6)) = 0x7F ∧
    Fmt.e8m0.encode ⟨.rne, false, 0⟩ (.num true 1 (-128)) = 0 ∧ Fmt.e8m0.encode ⟨.rne, false, 0⟩ (.num false 1 200) = 254 ∧
    (.mx .e2m1, 2) ∈ mxMax ∧ (mxBlock (.mx .e2m1) false .rne false [⟨.inf true, 0, 0⟩]) = (0x7F, [0xF]) ∧
    (mxBlock (.mx .e2m1) false .rne false [⟨.nan true, 0, 0⟩, ⟨.num false 7 0, 0, 0⟩]) = (0xFF, [0, 0]) ∧
    (mxBlock (.mx .e2m1) false .rne false [⟨.num true 6 0, 0, 0⟩, ⟨.num false 1 0, 0, 0⟩]) = (0x7F, [0xF, 0x2]) := by decide
theorem wit_logarithm : Val.logIs (.num true 6 0) 2 ∧ ∀ l, ¬Val.logIs (.inf true) l :=
  ⟨⟨true, 6, 0, rfl, by decide, by decide⟩, fun _ h => by obtain ⟨_, _, _, h, _⟩ := h; cases h⟩

end Sys2Proof.Tests
end

section
/-! What each command leaves alone of the set-up: a command that writes no register keeps all of `SetUpKept`, and every
command but kz_por_n keeps what a register write cannot change (R7, R9, R351, R365, R388). -/

namespace Sys2Proof.Machine

open Sys2Proof

/-! ### The state's operations -/

theorem SetUpKept.ite {s t u : State} {c : Prop} [Decidable c] (h : SetUpKept s t) (k : SetUpKept s u) :
    SetUpKept s (if c then t else u) := by
  split
  · exact h
  · exact k

/-- The always-on state is no part of the set-up. -/
theorem SetUpKept.onAo {s t : State} (h : SetUpKept s t) (a : AlwaysOn) :
    SetUpKept s { t with env := { t.env with ao := a } } :=
  h.trans (.of_eq rfl rfl rfl rfl)

/-- What an outcome leaves is kept if its next state is. -/
theorem SetUpKept.after {o : Out} {s : State} (h : ∃ t, o = .next t ∧ SetUpKept s t) : SetUpKept s (after o s) := by
  obtain ⟨t, rfl, k⟩ := h
  exact k

/-- What a register write keeps: the queue, the configuration, a tamper latch that is set, and while LOCK is 1 the
security set-up (R365, R378, R401). -/
structure WriteKept (s t : State) : Prop where
  pending : t.pending = s.pending
  cfg : t.env.cfg = s.env.cfg
  tamper : s.env.sec.tamper = true → t.env.sec.tamper = true
  setUp : locked s = true →
    t.env.sec.cfg = s.env.sec.cfg ∧ t.env.sec.saveBase = s.env.sec.saveBase ∧
    t.env.sec.stageBase = s.env.sec.stageBase ∧ t.env.sec.stageSize = s.env.sec.stageSize

theorem SetUpKept.writeKept {s t : State} (h : SetUpKept s t) : WriteKept s t :=
  ⟨h.pending, h.cfg, h.tamper, fun _ => ⟨h.secCfg, h.saveBase, h.stageBase, h.stageSize⟩⟩

namespace WriteKept

theorem refl (s : State) : WriteKept s s := (SetUpKept.refl s).writeKept

theorem trans {s t u : State} (h : WriteKept s t) (k : WriteKept t u) : WriteKept s u where
  pending := k.pending.trans h.pending
  cfg := k.cfg.trans h.cfg
  tamper x := k.tamper (h.tamper x)
  setUp l := by
    obtain ⟨c, a, b, z⟩ := h.setUp l
    obtain ⟨c', a', b', z'⟩ := k.setUp (by rw [locked, c]; exact l)
    exact ⟨c'.trans c, a'.trans a, b'.trans b, z'.trans z⟩

theorem ite {s t u : State} {c : Prop} [Decidable c] (h : WriteKept s t) (k : WriteKept s u) :
    WriteKept s (if c then t else u) := by
  split
  · exact h
  · exact k

theorem onRegs (s : State) (f : Regs → Regs) : WriteKept s (s.onRegs f) :=
  ⟨rfl, rfl, id, fun _ => ⟨rfl, rfl, rfl, rfl⟩⟩

end WriteKept

/-! ### Resets and the start (R351, R354-R360) -/

theorem coreReset_kept (s : State) : Reaches .coreReset s (SetUpKept s) := ⟨_, rfl, .of_eq rfl rfl rfl rfl⟩

theorem mgmtReset_writeKept (s : State) : Reaches .mgmtReset s (WriteKept s) :=
  ⟨_, rfl, rfl, rfl, id, fun _ => ⟨rfl, rfl, rfl, rfl⟩⟩

theorem start_kept (s : State) : Reaches .start s (SetUpKept s) := by
  refine ⟨_, rfl, .ite (.refl s) (.ite (.trans ?_ (enterPower_kept _)) ?_)⟩
  · exact .of_eq rfl rfl rfl rfl
  · exact .of_eq rfl rfl rfl rfl

theorem fuseWord_kept (word : W32) (last : Bool) (s : State) : Reaches (.fuseWord word last) s (SetUpKept s) := by
  have applied := (applyRepair_kept s (parseRepair word)).trans (.onRep _ (fun r => { r with fuse := r.fuse ++ [word] }))
  exact ⟨_, rfl, .ite (.refl s) (.ite applied
    (.ite ((applied.onAo _).trans (enterPower_kept _)) (applied.onAo _)))⟩

theorem fuseTmo_kept (s : State) : Reaches .fuseTmo s (SetUpKept s) := ⟨_, rfl, .ite (failStart_kept s 1) (.refl s)⟩

theorem startTmo_kept (s : State) : Reaches .startTmo s (SetUpKept s) := ⟨_, rfl, .ite (failStart_kept s 2) (.refl s)⟩

theorem qsRetry_kept (s : State) : Reaches .qsRetry s (SetUpKept s) := ⟨_, rfl, .of_eq rfl rfl rfl rfl⟩

theorem logicTestEnd_kept (f : LogicFails) (s : State) : Reaches (.logicTestEnd f) s (SetUpKept s) := by
  have found := (((SetUpKept.foldl _ startSpare_kept f.spares s).trans
    (.foldl _ startPleacher_kept (f.pleachers.foldl addUnit []) _)).trans
    (.foldl _ (startFenced_kept 1) f.movers _)).trans (.foldl _ (startFenced_kept 2) f.comparators _)
  exact ⟨_, rfl, .ite (.refl s) (found.trans (phaseEnd_kept _ _ _))⟩

theorem memoryTestEnd_kept (f : MemFails) (s : State) : Reaches (.memoryTestEnd f) s (SetUpKept s) := by
  have rows := ((SetUpKept.foldl _ startLeafRow_kept (leafOrder f.leafRows) s).trans
    (.foldl _ startBankRow_kept (bankOrder f.bankRows) _)).trans
    (.foldl _ startPrivet_kept (f.privetLines.foldl addUnit []) _)
  have found := (rows.trans (.foldl _ startPleacher_kept (f.pleachers.foldl addUnit []) _)).trans
    (.foldl _ (startFenced_kept 1) f.staging _)
  exact ⟨_, rfl, .ite (.refl s) (found.trans (phaseEnd_kept _ _ _))⟩

/-! ### Power, running and stopping, re-admission (R350, R362-R368) -/

theorem pwrAck_kept (h k : Nat) (level : Bool) (s : State) : Reaches (.pwrAck h k level) s (SetUpKept s) :=
  ⟨_, rfl, .ite (.refl s) (.of_eq rfl rfl rfl rfl)⟩

theorem powerDownRequest_kept (h k : Nat) (s : State) : Reaches (.powerDownRequest h k) s (SetUpKept s) :=
  ⟨_, rfl, .ite (.refl s) (.of_eq rfl rfl rfl rfl)⟩

theorem run_kept (s : State) : Reaches .run s (SetUpKept s) := by
  refine ⟨_, rfl, .ite (.refl s) (.trans ?_ (relax_kept _))⟩
  exact .of_eq rfl rfl rfl rfl

theorem blockStopped_kept (s : State) : Reaches .blockStopped s (SetUpKept s) :=
  ⟨_, rfl, .ite (.onEng _ _) (.refl s)⟩

theorem hrStart_kept (h : Nat) (s : State) : Reaches (.hrStart h) s (SetUpKept s) :=
  ⟨_, rfl, .ite (.refl s) (((SetUpKept.onEng _ _).trans (relax_kept _)).trans (.onEng _ _))⟩

theorem readmit_kept (h : Nat) (s : State) : Reaches (.readmit h) s (SetUpKept s) :=
  ⟨_, rfl, .ite ((SetUpKept.onEng _ _).trans (relax_kept _)) (.refl s)⟩

theorem readmitTestEnd_kept (h : Nat) (cmp : SliceObs) (pl : Tab SliceObs 8) (spare : SliceObs) (s : State) :
    Reaches (.readmitTestEnd h cmp pl spare) s (SetUpKept s) :=
  ⟨_, rfl, .ite (readmitEnd_kept _ _ _ _ _) (.refl s)⟩

theorem sliceEnd_kept (h : Nat) (obs : SliceObs) (rows : List Nat) (s : State) :
    Reaches (.sliceEnd h obs rows) s (SetUpKept s) := by
  refine ⟨_, rfl, ?_⟩
  split
  · exact .refl s
  · exact .ite (.refl s) (sliceOver_kept _ _ _ _ _)

/-! ### Repair, security, ports and the test network (R311, R323, R342, R343, R377-R381) -/

theorem softRepair_kept (word : W32) (s : State) : Reaches (.softRepair word) s (SetUpKept s) :=
  ⟨_, rfl, .ite (applyRepair_kept _ _) (.refl s)⟩

theorem repairLogRead_kept (s : State) : Reaches .repairLogRead s (SetUpKept s) := ⟨_, rfl, .of_eq rfl rfl rfl rfl⟩

theorem tamper_kept (fcStopped : Tied Bool) (s : State) : Reaches (.tamper fcStopped) s (SetUpKept s) := by
  refine ⟨_, rfl, .ite (.refl s) (.trans ?_ (startWipe_kept _ _ _))⟩
  exact ⟨rfl, rfl, rfl, rfl, rfl, rfl, rfl, fun _ => rfl⟩

theorem wipeEnd_kept (lines : List Nat) (s : State) : Reaches (.wipeEnd lines) s (SetUpKept s) :=
  ⟨_, rfl, .ite (.refl s) ((SetUpKept.foldl _ privetLineFails_kept _ s).trans (.onEng _ _))⟩

theorem testModeRise_kept (s : State) : Reaches .testModeRise s (SetUpKept s) := by
  have risen := SetUpKept.onPins s (fun p => { p with testMode := true })
  exact ⟨_, rfl, .ite (.refl s) (.ite ((risen.trans (startWipe_kept _ _ _)).trans (beginZeroize_kept _)) risen)⟩

theorem lcsRegister_kept (code : BitVec 4) (fcStopped : Tied Bool) (s : State) :
    Reaches (.lcsRegister code fcStopped) s (SetUpKept s) := by
  have registered : SetUpKept s (s.onEnv { s.env with
      sec := { s.env.sec with lcs := some code, lcsInvalid := s.env.sec.lcsInvalid || !lcsDefined code } }) :=
    ⟨rfl, rfl, rfl, rfl, rfl, rfl, rfl, id⟩
  have wiped := registered.trans (startWipe_kept _ fcStopped.val fcStopped.tie)
  exact ⟨_, rfl, .ite (.refl s)
    (.ite (.trans (.ite wiped registered) (beginZeroize_kept _)) (.ite wiped registered))⟩

theorem clkReqRaise_kept (s : State) : Reaches .clkReqRaise s (SetUpKept s) :=
  ⟨_, rfl, (SetUpKept.onPins _ _).trans (.onEng _ _)⟩

theorem clkReqLower_kept (s : State) : Reaches .clkReqLower s (SetUpKept s) :=
  ⟨_, rfl, (SetUpKept.onPins _ _).trans (.onEng _ _)⟩

theorem memQuiesce_kept (level : Bool) (s : State) : Reaches (.memQuiesce level) s (SetUpKept s) :=
  ⟨_, rfl, (SetUpKept.onPins _ _).trans (.onEng _ _)⟩

theorem memTrain_kept (level : Bool) (s : State) : Reaches (.memTrain level) s (SetUpKept s) :=
  ⟨_, rfl, (SetUpKept.onPins _ _).trans (.onEng _ _)⟩

theorem networkAccess_kept (a : NetAccess) (s : State) : Reaches (.networkAccess a) s (SetUpKept s) :=
  ⟨_, rfl, .trans (.ite (.refl s) (.onWrap _ _)) (netAccess_kept a _)⟩

/-! ### Every command that writes no register -/

/-- The commands with a case of their own reach the environment; the arm of every other one puts a new fc-domain state in
place and nothing else. -/
theorem exec_setUpKept (c : Instr) (s : State) (hr : writesRegs c = false) (hs : writesSec c = false) :
    Reaches c s (SetUpKept s) := by
  cases c with
  | powerOnReset | mgmtReset | registerWrite | pdEnable | pdDisable | pdRebind | genNegWrite => cases hr
  | secLock => cases hs
  | coreReset => exact coreReset_kept s
  | start => exact start_kept s
  | fuseWord word last => exact fuseWord_kept word last s
  | fuseTmo => exact fuseTmo_kept s
  | startTmo => exact startTmo_kept s
  | qsRetry => exact qsRetry_kept s
  | logicTestEnd f => exact logicTestEnd_kept f s
  | memoryTestEnd f => exact memoryTestEnd_kept f s
  | pwrAck h k level => exact pwrAck_kept h k level s
  | powerDownRequest h k => exact powerDownRequest_kept h k s
  | run => exact run_kept s
  | blockStopped => exact blockStopped_kept s
  | hrStart h => exact hrStart_kept h s
  | readmit h => exact readmit_kept h s
  | readmitTestEnd h cmp pl spare => exact readmitTestEnd_kept h cmp pl spare s
  | sliceEnd h obs rows => exact sliceEnd_kept h obs rows s
  | softRepair word => exact softRepair_kept word s
  | repairLogRead => exact repairLogRead_kept s
  | tamper fcStopped => exact tamper_kept fcStopped s
  | wipeEnd lines => exact wipeEnd_kept lines s
  | testModeRise => exact testModeRise_kept s
  | lcsRegister code fcStopped => exact lcsRegister_kept code fcStopped s
  | clkReqRaise => exact clkReqRaise_kept s
  | clkReqLower => exact clkReqLower_kept s
  | memQuiesce level => exact memQuiesce_kept level s
  | memTrain level => exact memTrain_kept level s
  | networkAccess a => exact networkAccess_kept a s
  | _ => exact ⟨_, rfl, .onEng _ _⟩

/-- A register that acts as a command keeps what the command keeps. -/
theorem after_kept (c : Instr) (s : State) (hr : writesRegs c = false) (hs : writesSec c = false) :
    SetUpKept s (after (exec c s) s) :=
  .after (exec_setUpKept c s hr hs)

/-! ### Register writes that act in the fc domain (R362-R364, R388, R389, R392) -/

theorem writeCtrl_kept (word : W32) (s : State) : SetUpKept s (writeCtrl word s) :=
  .ite (.ite (after_kept .drainingStop s rfl rfl) (after_kept .abortiveStop s rfl rfl))
    (.ite (after_kept .run s rfl rfl) (.refl s))

theorem writeCntClear_kept (word : W32) (s : State) : SetUpKept s (writeCntClear word s) :=
  have step (c : Instr) (i : Nat) (u : State) (hr : writesRegs c = false) (hs : writesSec c = false) :
      SetUpKept u (if wbit word i then after (exec c u) u else u) := .ite (after_kept c u hr hs) (.refl u)
  (((step .cntClearBlock 0 s rfl rfl).trans (step .cntClearHedgerow 1 _ rfl rfl)).trans
    (step .cntClearDomain 2 _ rfl rfl)).trans (step .cntClearRemote 3 _ rfl rfl)

theorem writeHrCtrl_kept (h : Nat) (word : W32) (s : State) : SetUpKept s (writeHrCtrl h word s) :=
  .ite (.ite (after_kept (.hrDrainingStop h) s rfl rfl) (after_kept (.hrAbortiveStop ⟨h, false⟩) s rfl rfl))
    (.ite (after_kept (.hrStart h) s rfl rfl) (.refl s))

theorem writeHrState_kept (h : Nat) (word : W32) (s : State) : SetUpKept s (writeHrState h word s) :=
  .ite (after_kept (.driverFence ⟨h, false⟩) s rfl rfl) (.ite (after_kept (.readmit h) s rfl rfl) (.refl s))

theorem writeQsReason_kept (word : W32) (s : State) : SetUpKept s (writeQsReason word s) :=
  .ite (after_kept .qsRetry s rfl rfl) (.refl s)

theorem writeSecStatus_kept (word : W32) (s : State) : SetUpKept s (writeSecStatus word s) :=
  ⟨rfl, rfl, rfl, rfl, rfl, rfl, rfl, id⟩

theorem writeBlockFc_kept (off : Nat) (word : W32) (s : State) : SetUpKept s (writeBlockFc off word s) := by
  refine .ite (.refl s) ?_
  split
  · exact writeCtrl_kept word s
  · exact .onEng _ _
  · exact .onEng _ _
  · exact writeCntClear_kept word s
  · exact after_kept (.rcFlush 0 word) s rfl rfl
  · exact after_kept (.rcFlush 1 word) s rfl rfl
  · exact after_kept (.rcFlush 2 word) s rfl rfl
  · exact .onRep _ _
  · exact after_kept (.softRepair word) s rfl rfl
  · exact after_kept (.iwpOpenSet word) s rfl rfl
  · exact after_kept (.iwpOpenClr word) s rfl rfl
  · exact .refl s

theorem spoilIf_kept (bad : Bool) (p : Job → Bool) (s : State) : SetUpKept s (spoilIf bad p s) :=
  .ite (.onEng _ _) (.refl s)

theorem cutIf_kept (h : Nat) (p : Turn → Bool) (s : State) : SetUpKept s (cutIf h p s) := .ite (.onEng _ _) (.refl s)

/-! ### Register writes that store a field (R365, R388, R401) -/

theorem spoilIf_writeKept {s t : State} (bad : Bool) (p : Job → Bool) (h : WriteKept s t) :
    WriteKept s (spoilIf bad p t) :=
  h.trans (spoilIf_kept bad p t).writeKept

theorem stoppedBlock_writeKept (s : State) (f : Regs → Regs) : WriteKept s (stoppedBlock (s.onRegs f)) :=
  spoilIf_writeKept _ _ (.onRegs s f)

theorem stoppedHr_writeKept (h : Nat) (s : State) (f : HrRegs → HrRegs) :
    WriteKept s (stoppedHr h (s.onHrRegs h f)) :=
  spoilIf_writeKept _ _ (.onRegs s _)

theorem onSec_writeKept_of_unlocked {s : State} {x : Sec} (hl : locked s = false)
    (ht : s.env.sec.tamper = true → x.tamper = true) : WriteKept s (s.onEnv { s.env with sec := x }) :=
  ⟨rfl, rfl, ht, fun l => absurd (hl.symm.trans l) Bool.false_ne_true⟩

theorem writeSecCfg_writeKept (word : W32) (s : State) : WriteKept s (writeSecCfg word s) := by
  unfold writeSecCfg
  split
  case isTrue => exact .refl s
  case isFalse hl => exact spoilIf_writeKept _ _ (onSec_writeKept_of_unlocked (Bool.eq_false_iff.mpr hl) id)

theorem writePrivet_writeKept (s : State) (f : Sec → Sec) (ht : s.env.sec.tamper = true → (f s.env.sec).tamper = true) :
    WriteKept s (writePrivet s f) := by
  unfold writePrivet
  split
  case isTrue => exact .refl s
  case isFalse hl =>
    simp only [Bool.or_eq_true, not_or, Bool.not_eq_true] at hl
    exact onSec_writeKept_of_unlocked hl.2 ht

theorem writePdCfg_writeKept (s : State) (d : Nat) (word : W32) : WriteKept s (writePdCfg s d word) :=
  have stored := WriteKept.onRegs s
    (fun r => { r with pd := r.pd.upd d (fun x => { x with cfg := maskWrite pdCfgMask word }) })
  .ite stored (stored.trans (SetUpKept.onEng _ _).writeKept)

theorem writePdIrq_writeKept (d : Nat) (word : W32) (s : State) : WriteKept s (writePdIrq d word s) :=
  have stored := WriteKept.onRegs s
    (fun r => { r with pd := r.pd.upd d (fun x => { x with ie := maskWrite 0x70000 word }) })
  .ite stored (stored.trans (SetUpKept.onEng _ _).writeKept)

theorem writeDomain_writeKept (d r : Nat) (word : W32) (s : State) : WriteKept s (writeDomain d r word s) := by
  unfold writeDomain
  split
  · exact writePdCfg_writeKept s d word
  · exact writePdIrq_writeKept d word s
  · exact .refl s

theorem writeOppt_writeKept (word : W32) (s : State) : WriteKept s (writeOppt word s) :=
  have stored := WriteKept.onRegs s (fun r => { r with bistOppt := maskWrite 0x0FFF0FFF word })
  .ite stored (stored.trans (SetUpKept.onEng _ _).writeKept)

theorem writeLend_writeKept (g : Nat) (word : W32) (s : State) : WriteKept s (writeLend g word s) :=
  (WriteKept.onRegs s _).trans (cutIf_kept _ _ _).writeKept

theorem writeLendHb_writeKept (h : Nat) (word : W32) (s : State) : WriteKept s (writeLendHb h word s) :=
  (WriteKept.onRegs s _).trans (cutIf_kept _ _ _).writeKept

theorem writeHr_writeKept (h r : Nat) (word : W32) (s : State) : WriteKept s (writeHr h r word s) := by
  unfold writeHr
  split
  · exact .ite (.refl s) (writeHrState_kept h word s).writeKept
  · exact .ite (.refl s) (writeHrCtrl_kept h word s).writeKept
  · exact (WriteKept.onRegs s _).trans (relax_kept _).writeKept
  · exact stoppedHr_writeKept h s _
  · exact .onRegs s _
  · exact (WriteKept.onRegs s _).trans (SetUpKept.onEng _ _).writeKept
  · exact writeLendHb_writeKept h word s
  · exact stoppedHr_writeKept h s _
  · exact stoppedHr_writeKept h s _
  · exact .onRegs s _
  · exact .onRegs s _
  · exact .onRegs s _
  · exact .refl s

theorem writeDt_writeKept (t r : Nat) (word : W32) (s : State) : WriteKept s (writeDt t r word s) := by
  unfold writeDt
  split
  · exact stoppedBlock_writeKept s _
  · exact stoppedBlock_writeKept s _
  · exact stoppedBlock_writeKept s _
  · exact stoppedBlock_writeKept s _
  · exact stoppedBlock_writeKept s _
  · exact .refl s

theorem writeWin_writeKept (w r : Nat) (word : W32) (s : State) : WriteKept s (writeWin w r word s) := by
  refine .ite (.refl s) ?_
  split
  · exact spoilIf_writeKept _ _ (.onRegs s _)
  · exact spoilIf_writeKept _ _ (.onRegs s _)
  · exact spoilIf_writeKept _ _ (.onRegs s _)
  · exact .refl s

theorem writeBlockRw_writeKept (off : Nat) (word : W32) (s : State) : WriteKept s (writeBlockRw off word s) := by
  unfold writeBlockRw
  split
  · exact .onRegs s _
  · exact stoppedBlock_writeKept s _
  · exact stoppedBlock_writeKept s _
  · exact stoppedBlock_writeKept s _
  · exact stoppedBlock_writeKept s _
  · exact .onRegs s _
  · exact .onRegs s _
  · exact .onRegs s _
  · exact .onRegs s _
  · exact .onRegs s _
  · exact writeOppt_writeKept word s
  · exact spoilIf_writeKept _ _ (writePrivet_writeKept s _ id)
  · exact writePrivet_writeKept s _ id
  · exact writePrivet_writeKept s _ id
  · exact stoppedBlock_writeKept s _
  · exact .refl s

theorem writeBlock_writeKept (off : Nat) (word : W32) (s : State) : WriteKept s (writeBlock off word s) := by
  unfold writeBlock
  split
  · exact WriteKept.onRegs s (fun r => { r with genNeg := 1 })
  · exact (writeQsReason_kept word s).writeKept
  · exact writeSecCfg_writeKept word s
  · exact (writeSecStatus_kept word s).writeKept
  · exact (writeBlockRw_writeKept off word s).trans (writeBlockFc_kept off word _).writeKept

theorem writeReg_writeKept (addr : Nat) (word : W32) (s : State) : WriteKept s (writeReg addr word s) :=
  .ite (writeBlock_writeKept _ word s)
    (.ite (.ite (writeDomain_writeKept _ _ word s) (.refl s))
      (.ite (.refl s)
        (.ite (writeDt_writeKept _ _ word s)
          (.ite (writeWin_writeKept _ _ word s)
            (.ite (.refl s)
              (.ite (.ite (writeLend_writeKept _ word s) (.refl s))
                (.ite (.refl s)
                  (.ite (.ite (writeHr_writeKept _ _ word s) (.refl s)) (.refl s)))))))))

/-! ### Every command -/

/-- Every command but kz_por_n completes and keeps what a register write keeps. -/
theorem exec_writeKept (c : Instr) (s : State) (hc : c ≠ .powerOnReset) : Reaches c s (WriteKept s) := by
  have other (hr : writesRegs c = false) (hs : writesSec c = false) : Reaches c s (WriteKept s) := by
    obtain ⟨t, ht, k⟩ := exec_setUpKept c s hr hs
    exact ⟨t, ht, k.writeKept⟩
  cases c with
  | powerOnReset => exact absurd rfl hc
  | mgmtReset => exact mgmtReset_writeKept s
  | registerWrite off word => exact ⟨_, rfl, writeReg_writeKept off word s⟩
  | pdEnable d word | pdDisable d word | pdRebind d word =>
    exact ⟨_, rfl, .ite (writePdCfg_writeKept s d word) (.refl s)⟩
  | genNegWrite => exact ⟨_, rfl, .onRegs s _⟩
  | secLock word => exact ⟨_, rfl, .ite (writeSecCfg_writeKept word s) (.refl s)⟩
  | _ => exact other rfl rfl

/-- Every command completes, with the queue and the configuration kept: kz_por_n clears the environment around the
configuration, and no other command touches it. -/
theorem exec_reaches_queue_cfg (c : Instr) (s : State) :
    Reaches c s (fun t => t.pending = s.pending ∧ t.env.cfg = s.env.cfg) := by
  by_cases hc : c = .powerOnReset
  · subst hc
    exact ⟨_, rfl, rfl, rfl⟩
  · obtain ⟨t, ht, k⟩ := exec_writeKept c s hc
    exact ⟨t, ht, k.pending, k.cfg⟩

/-- Settles O2: the next state is the one `exec_reaches_queue_cfg` gives. -/
theorem commandsCompleteAndKeepTheQueue : Obligations.CommandsCompleteAndKeepTheQueue := by
  unfold Obligations.CommandsCompleteAndKeepTheQueue
  constructor
  · intro c s
    obtain ⟨t, ht, _⟩ := exec_reaches_queue_cfg c s
    exact ⟨t, ht⟩
  · intro c s t ht
    obtain ⟨u, hu, k⟩ := exec_reaches_queue_cfg c s
    obtain rfl : u = t := Host.Outcome.next.inj (hu.symm.trans ht)
    exact k

end Sys2Proof.Machine
end

section
/-! The issue of register-to-register row instructions: which instruction a pleacher issues, what joins the
instructions in flight, and the common issue of every form that no shape and no register holds (R119, R122-R124, R127,
R130). -/

namespace Sys2Proof.Machine

open Sys2Proof

/-! ### The instruction a pleacher issues -/

theorem opRun_of_listed {i : Insn} (h : opListed (opOf i) = true) : opRun i = opOf i := if_pos h

theorem opRun_beq_of_opOf {i : Insn} {op : Nat} (hi : opOf i = op) (h : opListed op = true) :
    (opRun i == op) = true := by
  subst hi
  exact beq_iff_eq.mpr (opRun_of_listed h)

/-- A pleacher that may issue `i` presents it (R126, R130). -/
theorem atIssue_of_mayIssue {s : State} {g : Nat} {j : Job} {i : Insn} (h : MayIssue s g j i) :
    atIssue s.eng g = some (j, i) := by
  obtain ⟨_, hphase, hwait, hjob, hinsn, hprog, hst, hstatus⟩ := h
  simp [atIssue, hphase, hwait, hjob, hinsn, hprog, hst, hstatus]

theorem issuing_of_mayIssue {s : State} {g : Nat} {j : Job} {i : Insn} {sel : Insn → Bool} (h : MayIssue s g j i)
    (hsel : sel i = true) : issuing s.eng g sel = some (j, i) := by
  simp [issuing, atIssue_of_mayIssue h, hsel]

/-! ### The launch of a row instruction -/

/-- A launch is the issue of its flight: the number, the flight with its checkpoint, the latches, the context and PC
are one change of the pleacher (R119, R127, R130, R159). -/
theorem onEng_launch (s : State) (g : Nat) (i : Insn) (f : Flight) (after : Ctx → Ctx) :
    s.onEng (s.eng.launch g i f after) = issued s g i f after := by
  simp only [Eng.launch, Eng.nextPc, Eng.onCtx_eq, Eng.onPl_onPl]
  rfl

/-- The common issue of an instruction that reads the registers `rs`, where no shape is at fault and no register holds
it: it is issued with the image of the operands as they are (R122-R124, R130). -/
theorem onEng_issueReg {s : State} {g : Nat} {j : Job} {i : Insn} {sel : Insn → Bool} {reads : Insn → List Nat}
    {rs : List Nat} {img : Job → Pleacher → Insn → List Byte} {oob : Pleacher → Insn → Bool}
    {after : Insn → Ctx → Ctx} (h : MayIssue s g j i) (hshape : shapeFault i = false) (hsel : sel i = true)
    (hreads : reads i = rs) (hfree : scoreboard s.eng (s.eng.pl.look g) j rs [tdOf i] (rs.contains (tdOf i)) = true) :
    s.onEng (issueReg s.env s.eng g sel reads img oob after) =
      issued s g i (regFlight rs (tdOf i) (w3Of i) (img j (s.eng.pl.look g) i) (oob (s.eng.pl.look g) i))
        (after i) := by
  subst hreads
  rw [← onEng_launch]
  simp only [issueReg, issuing_of_mayIssue h hsel, hshape, hfree, Bool.not_true, Bool.false_eq_true, if_false]

/-! ### The registers a TSCAT reads (R153) -/

theorem tscatReads_apart {i : Insn} (h : subOf i 1 1 = 0) : tscatReads i = [taOf i, tbOf i] := by
  simp [tscatReads, h]

theorem tscatReads_merge {i : Insn} (h : subOf i 1 1 = 1) : tscatReads i = [taOf i, tbOf i, tdOf i] := by
  simp [tscatReads, h]

/-! ### Every form -/

/-- Settles O41: each form is the common issue `onEng_issueReg` with its own registers, image and marks. -/
theorem registerOperationsIssue : Obligations.RegisterOperationsIssue := by
  unfold Obligations.RegisterOperationsIssue
  intro s g j i h hshape p td ta tb a b fill flight issues
  refine ⟨?txp, ?tgath, ?tscat, ?tscatMerge, ?tplane, ?tswz, ?tfill, ?tpad, ?tcat, ?tmov⟩
  case txp | tgath | tplane | tswz | tcat =>
    intro hop hfree
    exact congrArg Host.Outcome.next (onEng_issueReg h hshape (opRun_beq_of_opOf hop rfl) rfl hfree)
  case tscat =>
    intro hop hmerge hfree
    exact congrArg Host.Outcome.next
      (onEng_issueReg h hshape (opRun_beq_of_opOf hop rfl) (tscatReads_apart hmerge) hfree)
  case tscatMerge =>
    intro hop hmerge hfree
    exact congrArg Host.Outcome.next
      (onEng_issueReg h hshape (opRun_beq_of_opOf hop rfl) (tscatReads_merge hmerge) hfree)
  case tfill | tpad | tmov =>
    intro hop hform hfree
    have hsel := Bool.and_eq_true_iff.mpr ⟨opRun_beq_of_opOf hop rfl, beq_iff_eq.mpr hform⟩
    exact congrArg Host.Outcome.next (onEng_issueReg h hshape hsel rfl hfree)

end Sys2Proof.Machine
end

section
/-! The staging copy of a job beside a write transaction that carries the purpose of a copy's read: the copy waits for
the transaction, though no unit of it comes from host memory (R182). -/

namespace Sys2Proof.Machine

open Sys2Proof

/-! ### Distributed tensors -/

/-- Where no tensor's aperture is enabled, no address resolves (R287). -/
theorem dtFind_of_no_aperture {v : Env} (h : ∀ t ∈ upTo 32, bitOn (v.regs.dt.look t).shape.toNat 31 = false) (a : Nat) :
    dtFind v a = none := by
  have outside : (upTo 32).find? (dtHas v a) = none :=
    List.find?_eq_none.mpr (fun t ht => by simp [dtHas, h t ht])
  rw [dtFind, outside, Option.map_none]

/-! ### A copy beside a stray write -/

/-- A write transaction of the job on pleacher 0, slot 0, with the purpose of a copy's read: `readsOut` passes over it
because it is a write, `copyReadsOut` counts it because of its purpose. -/
def strayWrite : Xact := { (default : Xact) with write := true, live := true, purpose := .stageRead 0 }

/-- A planner program's job that owes its copy: one unit of hedge bank 0, to the start of the hedgerow's region. -/
def owesBankUnit : Job :=
  { (default : Job) with
    desc := { (default : Desc) with prog := true }
    st := .running
    staged := true
    stage := .owed
    boxes := [⟨.bank 0, 0, 64, 0, 0, 1, false⟩] }

/-- Pleacher 0 runs `owesBankUnit` while `strayWrite` is outstanding. -/
def copyBesideStrayWrite : State :=
  { State.reset with
    eng :=
      { Eng.reset with
        phase := .running
        jobs := [owesBankUnit]
        pl := Eng.reset.pl.upd 0 (fun p => { p with phase := .running })
        hr := Eng.reset.hr.upd 0 (fun r => { r with xacts := [strayWrite] }) } }

theorem dtFind_copyBesideStrayWrite (a : Nat) : dtFind copyBesideStrayWrite.env a = none :=
  dtFind_of_no_aperture (by decide) a

theorem copyList_owesBankUnit_no_host (v : Env) (h : Nat) :
    ∀ x ∈ copyList (owesBankUnit.boxes.map (sampleBox v h)), x.1.1.inst ≠ .host := by
  intro x hx
  have : x.1 ∈ copyUnits (owesBankUnit.boxes.map (sampleBox v h)) := (List.of_mem_zip hx).1
  simp only [copyUnits, owesBankUnit, List.map_cons, List.map_nil, List.flatMap_cons, List.flatMap_nil,
    List.append_nil, List.mem_map] at this
  obtain ⟨u, _, hu⟩ := this
  rw [← hu]
  simp [sampleBox]

/-- The counterexample meets the invariants of the block, so that they alone do not repair the statement. -/
theorem blockInv_copyBesideStrayWrite : BlockInv copyBesideStrayWrite where
  mem := by unfold MemInv; decide
  tiles := by decide
  kept := by decide
  slots := by decide
  rings := by unfold RingsSorted; decide

/-- `readsOut` and `copyReadsOut` disagree on the stray write. -/
theorem readsOut_copyBesideStrayWrite :
    readsOut copyBesideStrayWrite.eng owesBankUnit = false ∧ copyReadsOut copyBesideStrayWrite.eng owesBankUnit = true := by
  decide

/-- The copy begins and still waits for a unit, though it asked for none. -/
theorem copying_of_stagingCopyStart {t : State} (ht : exec (.stagingCopyStart 0) copyBesideStrayWrite = .next t) :
    (t.eng.jobAt owesBankUnit.key).map Job.stage = some .copying := by
  cases ht
  decide

/-- Refutes O35: the copy's start supposes with `readsOut` that no read of the job is outstanding, where the copy itself
waits by `copyReadsOut`, which counts a write too that carries a copy read's purpose. Beside such a write
(`copyBesideStrayWrite`) a copy without host units stays in its reading stage instead of being written. No command
issues such a write: it is the statement's hypotheses that leave it in, not the copy that fails. -/
theorem not_stagingCopyAndFetch : ¬ Obligations.StagingCopyAndFetch := by
  unfold Obligations.StagingCopyAndFetch
  rintro ⟨⟨copy, _⟩, _⟩
  have current : copyBesideStrayWrite.eng.curJob 0 = some owesBankUnit := by decide
  have quiet : Quiet copyBesideStrayWrite 0 := by unfold Quiet; decide
  have served : (copyBesideStrayWrite.eng.touchAll copyBesideStrayWrite.env owesBankUnit.key
      (owesBankUnit.boxes.map boxAccess)).2 = .ok := by decide
  obtain ⟨t, ht, j, hjob, hboxes, _, _, _, _, _, _, _, _, hwritten⟩ :=
    copy copyBesideStrayWrite 0 owesBankUnit (by decide) (by decide) current rfl rfl rfl quiet
      dtFind_copyBesideStrayWrite served readsOut_copyBesideStrayWrite.1 rfl blockInv_copyBesideStrayWrite.mem
      (by decide)
  have writing : j.stage = .writing := (hwritten (hboxes ▸ copyList_owesBankUnit_no_host _ _)).1
  have copying := copying_of_stagingCopyStart ht
  rw [hjob, Option.map_some, writing] at copying
  exact absurd copying (by decide)

end Sys2Proof.Machine
end
